-- ==== Sys2Proof/Word.lean ====
section
/-! DEFINITION. The word types of the PGS block: what the spec treats as bits (00_scope.md R15, R17, R21). -/

namespace Sys2Proof

/-- A 32-bit word: the width of every register, command and host transaction (R15, R90). -/
abbrev Word := BitVec 32

/-- One byte of the codec buffer CBUF (R79). -/
abbrev Byte := BitVec 8

/-- A 24-bit color, red in bits 23..16, green in 15..8, blue in 7..0 (R15, R21). -/
abbrev Color := BitVec 24

/-- The bits of an IEEE 754 binary64 number (R17). -/
abbrev F64 := BitVec 64

end Sys2Proof
end

