-- ==== Sys2Proof/Syntax.lean ====
section
/-! DEFINITION. The commands of PGS: one constructor for each row of spec/opcode_table.json (30_encoding.md R131). -/

namespace Sys2Proof

/-- The axis field AX (R130): RAD has one line per sector, ANG one line per light. -/
inductive Axis where
  /-- AX = 0: the line of a sector runs over lights. -/
  | rad
  /-- AX = 1: the line of a light runs over sectors. -/
  | ang
  deriving DecidableEq, Repr

/-- The basis field BS (R130). -/
inductive Basis where
  /-- BS = 0: the Fourier ("direct") transform. -/
  | fourier
  /-- BS = 1: the cosine transform. -/
  | cosine
  deriving DecidableEq, Repr

/-- The codec source field SR (R130). -/
inductive Source where
  /-- SR = 0: the grid FULL. -/
  | full
  /-- SR = 1: the grid INV. -/
  | inv
  deriving DecidableEq, Repr

/-- The commands of PGS with the fields each one uses (R131). -/
inductive Instr where
  /-- NOP (R254). -/
  | nop
  /-- SAMPLE (R150). -/
  | sample
  /-- FWD AX BS (R180). -/
  | fwd (ax : Axis) (bs : Basis)
  /-- INV AX (R191). -/
  | inv (ax : Axis)
  /-- HENC_LINE AX SR IDX (R222). -/
  | hencLine (ax : Axis) (sr : Source) (idx : Nat)
  /-- HENC_ALL AX SR (R223). -/
  | hencAll (ax : Axis) (sr : Source)
  /-- HDEC (R236). -/
  | hdec
  /-- CBUF_CLEAR (R224). -/
  | cbufClear
  /-- GRID_LOAD (R170). -/
  | gridLoad
  deriving DecidableEq, Repr

end Sys2Proof
end

