-- ==== Sys2Proof/WellFormed.lean ====
section
/-! DEFINITION. Which commands can be written as a command word (30_encoding.md R130, R136). -/

namespace Sys2Proof

/-- IDX is an unsigned 12-bit field, so an index is at most 4095 (R130, R136: "An assembler refuses an idx outside 0..4095"). -/
def idxFits (idx : Nat) : Bool := decide (idx < 4096)

/-- The one check a command can fail: the line index of HENC_LINE fits its field. Every other operand is
an enumerated field whose every value is encodable. -/
def Instr.wf : Instr → Bool
  | .nop => true
  | .sample => true
  | .fwd _ _ => true
  | .inv _ => true
  | .hencLine _ _ idx => idxFits idx
  | .hencAll _ _ => true
  | .hdec => true
  | .cbufClear => true
  | .gridLoad => true

/-- A command is well formed when its fields fit the command word. -/
abbrev WellFormed (i : Instr) : Prop := i.wf = true

end Sys2Proof
end

