-- ==== Sys2Proof/Decode.lean ====
section
/-! DEFINITION. Command words: the opcode table, the decoder and the encoder (30_encoding.md R130 to R136). -/

namespace Sys2Proof

/-- Why a word is no command: R135's two cases, by name. -/
inductive Reject where
  /-- The opcode is 0x9 to 0xF (R131, R135). -/
  | reservedOpcode
  /-- A bit under the opcode's mask differs from its match: a reserved bit or a field the opcode does not use is set (R133). -/
  | unusedBits
  deriving DecidableEq, Repr

/-- One row of R133's table: the bits every legal word of the opcode agrees on. -/
structure OpcodeRow where
  mnemonic : String
  mask : Word
  pattern : Word
  deriving DecidableEq, Repr

/-- The nine rows of R133, in opcode order; row number = OP. -/
def opcodeRows : List OpcodeRow :=
  [ ⟨"NOP",        0xFFFFFFFF, 0x00000000⟩,
    ⟨"SAMPLE",     0xFFFFFFFF, 0x00000001⟩,
    ⟨"FWD",        0xFFFFFFCF, 0x00000002⟩,
    ⟨"INV",        0xFFFFFFEF, 0x00000003⟩,
    ⟨"HENC_LINE",  0xFFF000AF, 0x00000004⟩,
    ⟨"HENC_ALL",   0xFFFFFFAF, 0x00000005⟩,
    ⟨"HDEC",       0xFFFFFFFF, 0x00000006⟩,
    ⟨"CBUF_CLEAR", 0xFFFFFFFF, 0x00000007⟩,
    ⟨"GRID_LOAD",  0xFFFFFFFF, 0x00000008⟩ ]

/-- A word has the shape of a row: `(w & mask) == match` (R133). -/
def OpcodeRow.fits (r : OpcodeRow) (w : Word) : Bool := decide (w &&& r.mask = r.pattern)

/-- The field OP = w[3:0] (R130). -/
def opField (w : Word) : Nat := (w.extractLsb' 0 4).toNat

/-- The field AX = w[4] (R130). -/
def axisField (w : Word) : Axis := if w.getLsbD 4 then .ang else .rad

/-- The field BS = w[5] (R130). -/
def basisField (w : Word) : Basis := if w.getLsbD 5 then .cosine else .fourier

/-- The field SR = w[6] (R130). -/
def sourceField (w : Word) : Source := if w.getLsbD 6 then .inv else .full

/-- The field IDX = zext_12(w[19:8]) (R130, R132). -/
def idxField (w : Word) : Nat := (w.extractLsb' 8 12).toNat

/-- The command of an opcode with the fields its row uses, and none for the reserved opcodes (R131, R134). -/
def instrOfOp (op : Nat) (w : Word) : Option Instr :=
  match op with
  | 0 => some .nop
  | 1 => some .sample
  | 2 => some (.fwd (axisField w) (basisField w))
  | 3 => some (.inv (axisField w))
  | 4 => some (.hencLine (axisField w) (sourceField w) (idxField w))
  | 5 => some (.hencAll (axisField w) (sourceField w))
  | 6 => some .hdec
  | 7 => some .cbufClear
  | 8 => some .gridLoad
  | _ => none

/-- R134's decoding function, total over all 32-bit words. -/
def decode (w : Word) : Except Reject Instr :=
  match opcodeRows[opField w]?, instrOfOp (opField w) w with
  | some row, some i => if row.fits w then .ok i else .error .unusedBits
  | _, _ => .error .reservedOpcode

/-- The bit of the field AX. -/
def Axis.bit : Axis → Word
  | .rad => 0
  | .ang => 1

/-- The bit of the field BS. -/
def Basis.bit : Basis → Word
  | .fourier => 0
  | .cosine => 1

/-- The bit of the field SR. -/
def Source.bit : Source → Word
  | .full => 0
  | .inv => 1

/-- The word of a command, written from R136's table: the encoder. Total; faithful on well-formed commands. -/
def encode : Instr → Word
  | .nop => 0x00000000
  | .sample => 0x00000001
  | .fwd ax bs => 0x00000002 ||| ax.bit <<< 4 ||| bs.bit <<< 5
  | .inv ax => 0x00000003 ||| ax.bit <<< 4
  | .hencLine ax sr idx => 0x00000004 ||| ax.bit <<< 4 ||| sr.bit <<< 6 ||| BitVec.ofNat 32 idx <<< 8
  | .hencAll ax sr => 0x00000005 ||| ax.bit <<< 4 ||| sr.bit <<< 6
  | .hdec => 0x00000006
  | .cbufClear => 0x00000007
  | .gridLoad => 0x00000008

/-- The word a row of the opcode table stands for, when only its low `nbits` bits are given: the bits above are 0. -/
def tableWord (nbits w : Nat) : Word := BitVec.ofNat 32 (w % 2 ^ nbits)

/-- The decoder's answer on the word whose bits are `w` (bit 0 least significant), as the opcode table numbers
them. A command is one 32-bit word handed over whole (R130), so there is no byte order to choose. -/
def decodeTableWord (nbits w : Nat) : Option Instr :=
  if nbits ≤ 32 then (decode (tableWord nbits w)).toOption else none

end Sys2Proof
end

