-- ==== Sys2Proof/Machine/Memory.lean ====
section
/-! DEFINITION. An internal memory as plain data: the cells written since the hardware reset, as a list of (index,
contents) pairs in one canonical form, indices strictly rising. A cell that is not listed has no value of its own
here; what it reads as is `powerOn` (70_reset_and_hazards.md R291), in Machine/Operands.lean. -/

namespace Sys2Proof.Machine

/-- The written cells of a memory. For CBUF, whose cells are bytes, this is a list of Host.Cell. -/
abbrev Memory (α : Type) := List (Nat × α)

variable {α : Type}

/-- What an unlisted cell holds in the list: no value. -/
def Memory.unlisted : Option α := none

/-- The contents of a cell, none when nothing has written it. -/
def Memory.read? : Memory α → Nat → Option α
  | [], _ => Memory.unlisted
  | c :: m, k => if k = c.1 then some c.2 else Memory.read? m k

/-- The memory after one cell is written, in canonical form again. -/
def Memory.write : Memory α → Nat → α → Memory α
  | [], k, v => [(k, v)]
  | c :: m, k, v =>
    if k < c.1 then (k, v) :: c :: m
    else if k = c.1 then (k, v) :: m
    else c :: Memory.write m k v

/-- The memory after a list of cells is written, first to last. -/
def Memory.writeAll (m : Memory α) (cells : List (Nat × α)) : Memory α :=
  cells.foldl (fun m c => Memory.write m c.1 c.2) m

/-- The canonical form: indices strictly rising, so that equal memories are equal lists. -/
def Memory.wf : Memory α → Bool
  | [] => true
  | [_] => true
  | c :: d :: m => decide (c.1 < d.1) && Memory.wf (d :: m)

end Sys2Proof.Machine
end

