-- ==== Sys2Proof/Machine/State.lean ====
section
/-! DEFINITION. The state of PGS (10_state.md R30 to R81): the registers, the internal memories, and the model's own
record of what the outside world does at the port. Plain data. -/

namespace Sys2Proof.Machine

/-- The fields of STATUS (R41); bits 31..13 are reserved and read as 0. -/
structure Status where
  /-- [0] BUSY: a command is pending (also R33). -/
  busy : Bool
  /-- [1] DONE -/
  done : Bool
  /-- [2] ERR -/
  err : Bool
  /-- [3] HAZ -/
  haz : Bool
  /-- [4] BUSERR -/
  busErr : Bool
  /-- [5] TRUNC8 -/
  trunc8 : Bool
  /-- [6] GRID_VALID -/
  gridValid : Bool
  /-- [7] COEF_VALID_RAD -/
  coefValidRad : Bool
  /-- [8] COEF_VALID_ANG -/
  coefValidAng : Bool
  /-- [9] INV_VALID -/
  invValid : Bool
  /-- [10] COEF_BASIS_RAD -/
  coefBasisRad : Basis
  /-- [11] COEF_BASIS_ANG -/
  coefBasisAng : Basis
  /-- [12] INV_AXIS -/
  invAxis : Axis
  deriving DecidableEq, Repr

/-- The enables of CTRL (R40); SOFT_RESET is an action and holds nothing. -/
structure Ctrl where
  ieDone : Bool
  ieErr : Bool
  ieBus : Bool
  deriving DecidableEq, Repr

/-- Every register of R33 and R40 to R71. ID and PARAM_* (R34 to R39) are constants that no write and no reset
changes: the read of a register gives them (Machine/Port.lean). -/
structure Regs where
  /-- CTRL (R40) -/
  ctrl : Ctrl
  /-- STATUS (R41), with the Engine's BUSY (R33) -/
  status : Status
  /-- ERRCODE (R42) -/
  errCode : BitVec 8
  /-- ERRCMD (R44) -/
  errCmd : Word
  /-- PEND, the hidden pending command word (R33) -/
  pend : Word
  /-- LASTCMD, read through CMD (R33, R43) -/
  lastCmd : Word
  /-- IMG_W (R45) -/
  imgW : BitVec 16
  /-- IMG_H (R46) -/
  imgH : BitVec 16
  /-- CFG_S (R47) -/
  cfgS : BitVec 16
  /-- CFG_L (R48) -/
  cfgL : BitVec 16
  /-- SAMPLE_RAD (R49) -/
  sampleRad : BitVec 8
  /-- CHMAX.RMAX (R50) -/
  rMax : BitVec 8
  /-- CHMAX.GMAX (R50) -/
  gMax : BitVec 8
  /-- CHMAX.BMAX (R50) -/
  bMax : BitVec 8
  /-- FT_N (R51) -/
  ftN : BitVec 16
  /-- FILT_START (R52) -/
  filtStart : BitVec 16
  /-- FILT_END (R53) -/
  filtEnd : BitVec 16
  /-- FILT_MODE.INCLUSIVE (R54) -/
  filtInclusive : Bool
  /-- CLEN (R55) -/
  clen : Word
  /-- LCNT (R56) -/
  lcnt : BitVec 16
  /-- DEC_OFF (R57) -/
  decOff : Word
  /-- DEC_RUNS (R58) -/
  decRuns : BitVec 16
  /-- DEC_LEN (R59) -/
  decLen : BitVec 16
  /-- DEC_END (R60) -/
  decEnd : Word
  /-- GAMMA (R61) -/
  gamma : F64
  /-- CX (R62) -/
  cx : F64
  /-- CY (R63) -/
  cy : F64
  /-- RIN (R64) -/
  rin : F64
  /-- ROUT (R65) -/
  rout : F64
  /-- GRID_S (R66) -/
  gridS : BitVec 16
  /-- GRID_L (R67) -/
  gridL : BitVec 16
  /-- COEF_N_RAD (R68) -/
  coefNRad : BitVec 16
  /-- COEF_N_ANG (R69) -/
  coefNAng : BitVec 16
  /-- INV_LEN (R70) -/
  invLen : BitVec 16
  /-- CONV_COUNT (R71) -/
  convCount : BitVec 16
  deriving DecidableEq, Repr

/-- One entry of COEF: a pair of F64 (R76). -/
structure Coef where
  re : F64
  im : F64
  deriving DecidableEq, Repr

/-- One entry of LTAB with the fields of its four words (R80). -/
structure LtabEntry where
  offset : Word
  length : Word
  leaves : BitVec 16
  runs : BitVec 16
  sr : Source
  ax : Axis
  line : BitVec 16
  deriving DecidableEq, Repr

/-- The internal memories (R72 to R81). The index of a cell is its word's place in its window (20_memory.md R93). -/
structure Mems where
  /-- IMG (R72), cell 2048 y + x -/
  img : Memory Color
  /-- NEW (R73), cell 256 s + l; a written cell holds none or a color -/
  new : Memory (Option Color)
  /-- CONV (R74), cell s -/
  conv : Memory Bool
  /-- FULL (R75), cell 256 s + l -/
  full : Memory Color
  /-- COEF[RAD] (R76), cell 4 (256 n + k) + c -/
  coefRad : Memory Coef
  /-- COEF[ANG] (R76), cell 4 (4096 n + k) + c -/
  coefAng : Memory Coef
  /-- WIDE (R77), cell 4 (256 s + l) + c, two's complement -/
  wide : Memory Word
  /-- INV (R78), cell 256 s + l -/
  inv : Memory Color
  /-- CBUF (R79), cell = byte offset -/
  cbuf : List Host.Cell
  /-- LTAB (R80), cell = entry number -/
  ltab : Memory LtabEntry
  /-- DBUF (R81), cell = position -/
  dbuf : Memory Color
  deriving DecidableEq, Repr

/-- A host transaction (20_memory.md R90): `off` is the byte offset from BLOCK_BASE, `size` the width in bytes. -/
inductive Transaction where
  | read (off size : Nat)
  | write (off size : Nat) (v : Word)
  deriving DecidableEq, Repr

/-- What can happen next in the total order of steps (R116, R290): the outside world's choice. -/
inductive Input where
  /-- A host transaction. -/
  | host (t : Transaction)
  /-- The Engine's step is placed here (R252, R303); nothing happens when no command is pending. -/
  | engine
  /-- The platform asserts the hardware reset input (R290). -/
  | hardReset
  deriving DecidableEq, Repr

/-- The state of the block, and three fields of the model's own: what the outside world will do, what the port has
answered, and how many hardware resets there have been (so that each leaves memories of its own, R291). -/
structure State where
  regs : Regs
  mems : Mems
  /-- MODEL: the inputs to come, in order. When it is empty and a command is pending, the Engine steps (R303). -/
  inputs : List Input
  /-- MODEL: the values the host reads returned, newest first. -/
  replies : List Word
  /-- MODEL: the number of hardware resets since power-up. -/
  resets : Nat
  deriving DecidableEq, Repr

/-- No step of PGS faults: every error, illegal access and out-of-range value has an effect the spec gives (60_exceptions.md
R260 to R289), so there is no constructor (safe: nothing can stop a run). -/
inductive Fault where
  deriving DecidableEq, Repr

/-- Why a command has no meaning in the model. -/
inductive Refusal where
  /-- The command is not modelled. Raised by an arm of exec that has no meaning yet; no arm is one (safe). -/
  | notModelled (mnemonic : String)
  deriving DecidableEq, Repr

/-- STATUS after reset: 0 (R292). -/
def Status.reset : Status :=
  { busy := false, done := false, err := false, haz := false, busErr := false, trunc8 := false,
    gridValid := false, coefValidRad := false, coefValidAng := false, invValid := false,
    coefBasisRad := .fourier, coefBasisAng := .fourier, invAxis := .rad }

/-- The registers after either reset (R292 and the rules it cites). -/
def Regs.reset : Regs :=
  { ctrl := { ieDone := false, ieErr := false, ieBus := false }
    status := Status.reset
    errCode := 0, errCmd := 0, pend := 0, lastCmd := 0
    imgW := 0, imgH := 0, cfgS := 0, cfgL := 0, sampleRad := 0
    rMax := 255, gMax := 176, bMax := 240
    ftN := 0, filtStart := 0, filtEnd := 0xFFFF, filtInclusive := true
    clen := 0, lcnt := 0, decOff := 0, decRuns := 0, decLen := 0, decEnd := 0
    gamma := 0x4012000000000000, cx := 0, cy := 0, rin := 0, rout := 0
    gridS := 0, gridL := 0, coefNRad := 0, coefNAng := 0, invLen := 0, convCount := 0 }

/-- The memories after a hardware reset: no cell written, so every cell is unspecified (R291). -/
def Mems.unwritten : Mems :=
  { img := [], new := [], conv := [], full := [], coefRad := [], coefAng := [], wide := [], inv := [],
    cbuf := [], ltab := [], dbuf := [] }

/-- The block right after a hardware reset, with nothing further to happen (R290 to R293). -/
def State.reset : State :=
  { regs := Regs.reset, mems := Mems.unwritten, inputs := [], replies := [], resets := 0 }

end Sys2Proof.Machine
end

