-- ==== Sys2Proof/Machine/Flags.lean ====
section
/-! DEFINITION. STATUS as a word, its W1C bits, the validity flags the commands keep, the error codes, and the interrupt
output (10_state.md R41, 43_control.md R258, 60_exceptions.md R261 to R275). -/

namespace Sys2Proof.Machine

/-- The errors a command word can raise (R261 to R273). -/
inductive ErrCode where
  | illegalCmd
  | busyReject
  | badConfig
  | notSampled
  | noCoef
  | noInv
  | badIndex
  | cbufOverflow
  | ltabOverflow
  | badOperand
  | decTruncated
  | decBadTree
  | decBadStarts
  deriving DecidableEq, Repr

/-- The codes 1 to 13 of R261 to R273. -/
def errCodeValue : ErrCode → BitVec 8
  | .illegalCmd => 1
  | .busyReject => 2
  | .badConfig => 3
  | .notSampled => 4
  | .noCoef => 5
  | .noInv => 6
  | .badIndex => 7
  | .cbufOverflow => 8
  | .ltabOverflow => 9
  | .badOperand => 10
  | .decTruncated => 11
  | .decBadTree => 12
  | .decBadStarts => 13

/-- A flag at its bit position. -/
def bitAt (b : Bool) (i : Nat) : Word := if b then (1 : Word) <<< i else 0

/-- COEF_BASIS_* and INV_AXIS as the bits R41 gives them. -/
def basisBit : Basis → Bool
  | .fourier => false
  | .cosine => true

/-- INV_AXIS as a bit (R41). -/
def axisBit : Axis → Bool
  | .rad => false
  | .ang => true

/-- STATUS as a host read returns it (R41); bits 31..13 are 0. -/
def statusWord (f : Status) : Word :=
  bitAt f.busy 0 ||| bitAt f.done 1 ||| bitAt f.err 2 ||| bitAt f.haz 3 ||| bitAt f.busErr 4 |||
  bitAt f.trunc8 5 ||| bitAt f.gridValid 6 ||| bitAt f.coefValidRad 7 ||| bitAt f.coefValidAng 8 |||
  bitAt f.invValid 9 ||| bitAt (basisBit f.coefBasisRad) 10 ||| bitAt (basisBit f.coefBasisAng) 11 |||
  bitAt (axisBit f.invAxis) 12

/-- CTRL as a host read returns it (R40): SOFT_RESET reads 0. -/
def ctrlWord (c : Ctrl) : Word := bitAt c.ieDone 0 ||| bitAt c.ieErr 1 ||| bitAt c.ieBus 2

/-- A host write of v to STATUS clears the W1C bits that are 1 in v, and leaves the RO fields (R41). -/
def statusAfterW1C (v : Word) (f : Status) : Status :=
  { f with
    done := f.done && !v.getLsbD 1
    err := f.err && !v.getLsbD 2
    haz := f.haz && !v.getLsbD 3
    busErr := f.busErr && !v.getLsbD 4
    trunc8 := f.trunc8 && !v.getLsbD 5 }

/-- A new grid: GRID_VALID is 1 and everything derived from the old one is invalid (R165, R170). -/
def statusNewGrid (f : Status) : Status :=
  { f with gridValid := true, coefValidRad := false, coefValidAng := false, invValid := false }

/-- FWD's flags: COEF_VALID and COEF_BASIS of its axis (R180). -/
def statusAfterFwd (ax : Axis) (bs : Basis) (f : Status) : Status :=
  match ax with
  | .rad => { f with coefValidRad := true, coefBasisRad := bs }
  | .ang => { f with coefValidAng := true, coefBasisAng := bs }

/-- INV's flags: INV_VALID and INV_AXIS (R191). -/
def statusAfterInv (ax : Axis) (f : Status) : Status := { f with invValid := true, invAxis := ax }

/-- COEF_VALID_ax (R41). -/
def coefValid (ax : Axis) (f : Status) : Bool :=
  match ax with
  | .rad => f.coefValidRad
  | .ang => f.coefValidAng

/-- COEF_BASIS_ax (R41). -/
def coefBasis (ax : Axis) (f : Status) : Basis :=
  match ax with
  | .rad => f.coefBasisRad
  | .ang => f.coefBasisAng

/-- The interrupt output (R275): a function of the registers, not state. -/
def irq (s : State) : Bool :=
  (s.regs.status.done && s.regs.ctrl.ieDone) || (s.regs.status.err && s.regs.ctrl.ieErr) ||
  ((s.regs.status.haz || s.regs.status.busErr) && s.regs.ctrl.ieBus)

end Sys2Proof.Machine
end

