-- ==== Sys2Proof/Machine/Huffman.lean ====
section
/-! DEFINITION. The encoding of one line of colors (42_codec.md R211 to R219): Huffman tree, codes, tree words, code
bytes, start bytes. -/

namespace Sys2Proof.Machine

/-- A Huffman tree (R212), without the frequencies its construction used. -/
inductive Tree where
  | leaf (c : Color)
  | node (left right : Tree)
  deriving DecidableEq, Repr

/-- An element of the queue Q of R212: a tree with its freq and seq. -/
structure QItem where
  tree : Tree
  freq : Nat
  seq : Nat
  deriving DecidableEq, Repr

/-- The lexicographic order on (freq, seq) (R212). -/
def itemLt (a b : QItem) : Bool :=
  decide (a.freq < b.freq) || (decide (a.freq = b.freq) && decide (a.seq < b.seq))

/-- The distinct colors of a line in the order of their first occurrence (R211), those already seen left out. -/
def distinctFrom : List Color → List Color → List Color
  | _, [] => []
  | seen, c :: x => if c ∈ seen then distinctFrom seen x else c :: distinctFrom (c :: seen) x

/-- c_0, ..., c_{K-1} (R211). -/
def distinctColors (x : List Color) : List Color := distinctFrom [] x

/-- The leaves of R212, seq = discovery order. -/
def leavesFrom (x : List Color) : Nat → List Color → List QItem
  | _, [] => []
  | t, c :: cs => { tree := .leaf c, freq := x.count c, seq := t } :: leavesFrom x (t + 1) cs

/-- The least element of a nonempty queue, and the others. -/
def popMin : QItem → List QItem → QItem × List QItem
  | q, [] => (q, [])
  | q, r :: rs =>
    if itemLt q (popMin r rs).1 then (q, (popMin r rs).1 :: (popMin r rs).2)
    else ((popMin r rs).1, q :: (popMin r rs).2)

/-- The node made of the first and the second element removed (R212). -/
def mergeItems (a b : QItem) (next : Nat) : QItem :=
  { tree := .node a.tree b.tree, freq := a.freq + b.freq, seq := next }

/-- The merge loop of R212 on a nonempty queue; each round takes two elements and puts one back, so a fuel of the
queue's length is enough. -/
def mergeLoop : Nat → Nat → QItem → List QItem → Tree
  | 0, _, q, _ => q.tree
  | fuel + 1, next, q, rs =>
    match (popMin q rs).2 with
    | [] => (popMin q rs).1.tree
    | b :: bs =>
      mergeLoop fuel (next + 1) (mergeItems (popMin q rs).1 (popMin b bs).1 next) (popMin b bs).2

/-- build_tree(x) (R212); none only for a line of no samples, which no grid has. -/
def buildTree (x : List Color) : Option Tree :=
  match leavesFrom x 0 (distinctColors x) with
  | [] => none
  | q :: rs => some (mergeLoop (rs.length + 1) (rs.length + 1) q rs)

/-- A code: its value and its length (R213). -/
structure Code where
  value : Nat
  length : Nat
  deriving DecidableEq, Repr

/-- The codes of the leaves below a node whose own code is given, left to right (R213). -/
def codesBelow : Tree → Code → List (Color × Code)
  | .leaf c, k => [(c, k)]
  | .node l r, k =>
    codesBelow l { value := 2 * k.value, length := k.length + 1 } ++
    codesBelow r { value := 2 * k.value + 1, length := k.length + 1 }

/-- The codebook of a tree: code(root) = (0, 0) (R213). -/
def codebook (t : Tree) : List (Color × Code) := codesBelow t { value := 0, length := 0 }

/-- The code of a color; the color is one of the line's. -/
def codeOf (t : Tree) (c : Color) : Code := ((codebook t).lookup c).getD { value := 0, length := 0 }

/-- The bits of a code, v[len-1] first (R216). -/
def codeBits (k : Code) : List Bool := (List.range k.length).map fun i => k.value.testBit (k.length - 1 - i)

/-- The bits c[23], c[22], ..., c[0] of a color (R214). -/
def colorBits (c : Color) : List Bool := (List.range 24).map fun i => c.getLsbD (23 - i)

/-- tbits (R214): pre-order, 1 and the color for a leaf, 0 for a node. -/
def treeBits : Tree → List Bool
  | .leaf c => true :: colorBits c
  | .node l r => false :: (treeBits l ++ treeBits r)

/-- The pieces of n elements of a list, the last one possibly shorter; a fuel of the list's length is enough. -/
def chunksOf {α : Type} (n : Nat) : Nat → List α → List (List α)
  | 0, _ => []
  | fuel + 1, l => if l.isEmpty then [] else l.take n :: chunksOf n fuel (l.drop n)

/-- The number whose bits, most significant first, are given. -/
def natOfBitsMsb (l : List Bool) : Nat := l.foldl (fun v b => 2 * v + b.toNat) 0

/-- The number whose bits, least significant first, are given. -/
def natOfBitsLsb : List Bool → Nat
  | [] => 0
  | b :: l => b.toNat + 2 * natOfBitsLsb l

/-- A 32-bit word filled MSB-first, 0 in its unused low bits (R214). -/
def treeWord (l : List Bool) : Word := BitVec.ofNat 32 (natOfBitsMsb (l ++ List.replicate (32 - l.length) false))

/-- The four bytes of a word, most significant first (R214). -/
def bytesBE (w : Word) : List Byte :=
  [w.extractLsb' 24 8, w.extractLsb' 16 8, w.extractLsb' 8 8, w.extractLsb' 0 8]

/-- The tree part of a line buffer (R214). -/
def treeBytes (t : Tree) : List Byte :=
  (chunksOf 32 (treeBits t).length (treeBits t)).flatMap fun l => bytesBE (treeWord l)

/-- The runs after a given color: (color, start) of each (R215). -/
def runsFrom : Nat → Color → List Color → List (Color × Nat)
  | _, _, [] => []
  | p, prev, c :: x => if c = prev then runsFrom (p + 1) prev x else (c, p) :: runsFrom (p + 1) c x

/-- The runs of a line (R215). -/
def runsOf : List Color → List (Color × Nat)
  | [] => []
  | c :: x => (c, 0) :: runsFrom 1 c x

/-- CBITS (R216). -/
def runBits (t : Tree) (runs : List (Color × Nat)) : List Bool :=
  runs.flatMap fun r => codeBits (codeOf t r.1)

/-- Bits packed LSB-first into bytes, 0 in the unused high bits of the last (R217). -/
def packLsb (l : List Bool) : List Byte :=
  (chunksOf 8 l.length l).map fun b => BitVec.ofNat 8 (natOfBitsLsb b)

/-- The start-index bytes: low8 of each run's start (R218). -/
def startBytes (runs : List (Color × Nat)) : List Byte := runs.map fun r => BitVec.ofNat 8 r.2

/-- encode_line's result (R219): the buffer, R and K. -/
structure LineBuffer where
  bytes : List Byte
  runs : Nat
  leaves : Nat
  deriving DecidableEq, Repr

/-- encode_line(x) (R219). -/
def encodeLine (x : List Color) : LineBuffer :=
  match buildTree x with
  | none => { bytes := [], runs := 0, leaves := 0 }
  | some t =>
    { bytes := treeBytes t ++ packLsb (runBits t (runsOf x)) ++ startBytes (runsOf x)
      runs := (runsOf x).length
      leaves := (distinctColors x).length }

end Sys2Proof.Machine
end

