-- ==== Sys2Proof/Machine/HuffmanRead.lean ====
section
/-! DEFINITION. Reading a line buffer back (42_codec.md R231 to R235), over any way `rd` of reading the byte at an
offset that may answer an error. -/

namespace Sys2Proof.Machine

variable (rd : Nat → Except ErrCode Byte)

/-- Tree bit t of the tree at offset o (R232): all four bytes of its big-endian word are read. -/
def treeBitAt (o t : Nat) : Except ErrCode Bool := do
  let b0 ← rd (o + 4 * (t / 32))
  let b1 ← rd (o + 4 * (t / 32) + 1)
  let b2 ← rd (o + 4 * (t / 32) + 2)
  let b3 ← rd (o + 4 * (t / 32) + 3)
  return ((b0 ++ b1 ++ b2 ++ b3 : Word)).getLsbD (31 - t % 32)

/-- The next n tree bits as a number, first bit most significant, on top of v (R233). -/
def treeBitsAt (o : Nat) : Nat → Nat → Nat → Except ErrCode Nat
  | 0, _, v => .ok v
  | n + 1, t, v => do
    let b ← treeBitAt rd o t
    treeBitsAt o n (t + 1) (2 * v + b.toNat)

/-- How far a parse has come: the tree bits read (T), LV and IN (R233). -/
structure ParsePos where
  bits : Nat
  leaves : Nat
  nodes : Nat
  deriving DecidableEq, Repr

/-- parse() (R233) with DEC_LEN = m. Every node read adds one to IN before its subtrees are parsed and IN stays below
m, so a fuel of m is enough and the case 0 is never reached. -/
def parseTree (o m : Nat) : Nat → ParsePos → Except ErrCode (Tree × ParsePos)
  | 0, _ => .error .decBadTree
  | fuel + 1, p => do
    let b ← treeBitAt rd o p.bits
    if b then
      if p.leaves = m then .error .decBadTree
      else
        let c ← treeBitsAt rd o 24 (p.bits + 1) 0
        return (.leaf (BitVec.ofNat 24 c), { bits := p.bits + 25, leaves := p.leaves + 1, nodes := p.nodes })
    else
      if p.nodes + 1 = m then .error .decBadTree
      else
        let l ← parseTree o m fuel { bits := p.bits + 1, leaves := p.leaves, nodes := p.nodes + 1 }
        let r ← parseTree o m fuel l.2
        return (.node l.1 r.1, r.2)

/-- Code bit t of the code at offset o2 (R234). -/
def codeBitAt (o2 t : Nat) : Except ErrCode Bool := do
  let b ← rd (o2 + t / 8)
  return b.getLsbD (t % 8)

/-- One symbol from code bit t on (R234): the color of the leaf reached and the next bit's number. -/
def readSymbol (o2 : Nat) : Tree → Nat → Except ErrCode (Color × Nat)
  | .leaf c, t => .ok (c, t)
  | .node l r, t => do
    let b ← codeBitAt rd o2 t
    if b then readSymbol o2 r (t + 1) else readSymbol o2 l (t + 1)

/-- The given number of symbols from code bit t on, and the number B of the bit after them (R234). -/
def readSymbols (o2 : Nat) (root : Tree) : Nat → Nat → Except ErrCode (List Color × Nat)
  | 0, t => .ok ([], t)
  | n + 1, t => do
    let c ← readSymbol rd o2 root t
    let cs ← readSymbols o2 root n c.2
    return (c.1 :: cs.1, cs.2)

/-- The given number of start bytes from offset o3 on (R235). -/
def readStarts : Nat → Nat → Except ErrCode (List Nat)
  | _, 0 => .ok []
  | o3, n + 1 => do
    let b ← rd o3
    let bs ← readStarts (o3 + 1) n
    return b.toNat :: bs

omit rd

/-- Each start is above the one before it (R235). -/
def risingStarts : List Nat → Bool
  | [] => true
  | [_] => true
  | a :: b :: l => decide (a < b) && risingStarts (b :: l)

/-- The check of R235: the first start is 0, the starts rise, the last is below DEC_LEN = m. -/
def startsOk (st : List Nat) (m : Nat) : Bool :=
  decide (st.head? = some 0) && risingStarts st && decide (st.getLast?.getD m < m)

/-- What HDEC writes (R236): DBUF[p] <- color_r for st_r <= p < st_{r+1}, with st_R = m. -/
def runCells : List Color → List Nat → Nat → List (Nat × Color)
  | c :: _, [a], m => (List.range' a (m - a)).map fun p => (p, c)
  | c :: cs, a :: b :: st, m => ((List.range' a (b - a)).map fun p => (p, c)) ++ runCells cs (b :: st) m
  | _, _, _ => []

/-- A decoded line: the cells of DBUF to write and DEC_END. -/
structure Decoded where
  cells : List (Nat × Color)
  decEnd : Nat
  deriving DecidableEq, Repr

/-- HDEC after check_hdec (R236): the line of m samples in r runs at offset o. -/
def readLine (rd : Nat → Except ErrCode Byte) (o r m : Nat) : Except ErrCode Decoded := do
  let t ← parseTree rd o m m { bits := 0, leaves := 0, nodes := 0 }
  let o2 := o + 4 * ((t.2.bits + 31) / 32)
  let cs ← readSymbols rd o2 t.1 r 0
  let o3 := o2 + (cs.2 + 7) / 8
  let st ← readStarts rd o3 r
  if startsOk st m then return { cells := runCells cs.1 st m, decEnd := o3 + r }
  else .error .decBadStarts

end Sys2Proof.Machine
end

