-- ==== Sys2Proof/Config.lean ====
section
/-! DEFINITION. What an implementation fixes: the named parameters of 00_scope.md R5 to R14 and the values the spec
leaves open (R19, R291). Every constant here is opaque: no proof can learn a value beyond the bounds its type gives. -/

namespace Sys2Proof

/-- The distance of S_MAX below its largest value 4096 (R5). -/
opaque Config.sSlack : Fin 4096
/-- The distance of L_MAX below 256 (R6). -/
opaque Config.lSlack : Fin 256
/-- The distance of W_MAX below 2048 (R7). -/
opaque Config.wSlack : Fin 2048
/-- The distance of H_MAX below 2048 (R7). -/
opaque Config.hSlack : Fin 2048
/-- The distance of N_MAX below 4096 (R8). -/
opaque Config.nSlack : Fin 4096
/-- The distance of RAD_MAX below 255 (R9). -/
opaque Config.radSlack : Fin 256
/-- The distance of CBUF_BYTES below 2^24, in words (R10). -/
opaque Config.cbufSlack : Fin 4194304
/-- The distance of LTAB_MAX below 4096, before R11's lower bound is applied. -/
opaque Config.ltabSlack : Fin 4096

/-- S_MAX, with 1 <= S_MAX <= 4096 and no other constraint (R5). -/
def Config.sMax : Nat := 4096 - Config.sSlack.val
/-- L_MAX, with 1 <= L_MAX <= 256 (R6). -/
def Config.lMax : Nat := 256 - Config.lSlack.val
/-- W_MAX, with 1 <= W_MAX <= 2048 (R7). -/
def Config.wMax : Nat := 2048 - Config.wSlack.val
/-- H_MAX, with 1 <= H_MAX <= 2048 (R7). -/
def Config.hMax : Nat := 2048 - Config.hSlack.val
/-- N_MAX, with 1 <= N_MAX <= 4096 (R8). -/
def Config.nMax : Nat := 4096 - Config.nSlack.val
/-- RAD_MAX, with 0 <= RAD_MAX <= 255 (R9). -/
def Config.radMax : Nat := 255 - Config.radSlack.val
/-- CBUF_BYTES, a multiple of 4 with 4 <= CBUF_BYTES <= 2^24 (R10). -/
def Config.cbufBytes : Nat := 4 * (4194304 - Config.cbufSlack.val)
/-- LTAB_MAX, with max(S_MAX, L_MAX) <= LTAB_MAX <= 4096 (R11). -/
def Config.ltabMax : Nat := max (max Config.sMax Config.lMax) (4096 - Config.ltabSlack.val)
/-- DBUF_LEN = 256 (R12). -/
def Config.dbufLen : Nat := 256

/-- BLOCK_BASE, the platform's choice (R13). -/
opaque Config.blockBase : Nat

/-- The cosine function the implementation uses, before properties P1 and P2 are imposed on it (R14, R19, I1). -/
opaque Config.cosFree : F64 → F64
/-- The sine function, before P1 and P2 are imposed. -/
opaque Config.sinFree : F64 → F64
/-- The power function, before P3 to P5 are imposed. -/
opaque Config.powFree : F64 → F64 → F64

/-- The internal memories of 10_state.md R72 to R81 (COEF is two files). -/
inductive MemName where
  | img | new | conv | full | coefRad | coefAng | wide | inv | cbuf | ltab | dbuf
  deriving DecidableEq, Repr

/-- The unspecified contents of the memories after a hardware reset (R291, I5): the raw bits of the cell with a given
index of a given memory, after the hardware reset with a given number. It is a fixed value that nothing determines. -/
opaque Config.powerOn : (resetNumber : Nat) → MemName → (cell : Nat) → BitVec 128

end Sys2Proof
end

