-- ==== Sys2Proof/Machine/Operands.lean ====
section
/-! DEFINITION. The operands of commands: colors and channels, the places of grid cells and lines, the cells of the
internal memories with what an unwritten one holds, and the configuration registers as numbers (00_scope.md R21,
10_state.md R45 to R81, 41_transform.md R181). -/

namespace Sys2Proof.Machine

/-- The channels k = 0, 1, 2 of a color (R21). -/
inductive Channel where
  | red
  | green
  | blue
  deriving DecidableEq, Repr

/-- The channels in the order of k. -/
def channels : List Channel := [.red, .green, .blue]

/-- The number k of a channel (R21). -/
def channelIndex : Channel → Nat
  | .red => 0
  | .green => 1
  | .blue => 2

/-- pack(r, g, b) (R21). -/
def pack (r g b : BitVec 8) : Color := r ++ g ++ b

/-- ch_k(c) (R21). -/
def channelOf (k : Channel) (c : Color) : BitVec 8 :=
  match k with
  | .red => c.extractLsb' 16 8
  | .green => c.extractLsb' 8 8
  | .blue => c.extractLsb' 0 8

/-- clamp(n, a, b) (R15). -/
def clamp (n a b : Int) : Int := min b (max a n)

/-- low8(n) (R15). -/
def low8 (n : Int) : BitVec 8 := BitVec.ofInt 8 n

/-- The cell of IMG[y][x] (R98's stride 2048). -/
def imgCell (y x : Nat) : Nat := 2048 * y + x

/-- The cell of FULL[s][l], NEW[s][l] and INV[s][l] (R99's stride 256). -/
def gridCell (s l : Nat) : Nat := 256 * s + l

/-- The cell of WIDE[s][l][c] (R104). -/
def wideCell (s l : Nat) (c : Channel) : Nat := 4 * (256 * s + l) + channelIndex c

/-- The cell of COEF[ax][n][k][c] in the file of its axis (R105). -/
def coefCell (ax : Axis) (n k : Nat) (c : Channel) : Nat :=
  match ax with
  | .rad => 4 * (256 * n + k) + channelIndex c
  | .ang => 4 * (4096 * n + k) + channelIndex c

/-- The memory that holds the coefficients of an axis. -/
def coefName : Axis → MemName
  | .rad => .coefRad
  | .ang => .coefAng

/-- The unspecified bits of a cell since the last hardware reset (R291). -/
def powerOnBits (s : State) (m : MemName) (cell : Nat) : BitVec 128 := Config.powerOn s.resets m cell

/-- The contents of a cell: what was written, or the unspecified bits read as a cell of that memory (R291). -/
def cellOr {α : Type} (ofBits : BitVec 128 → α) (m : Memory α) (bits : BitVec 128) (cell : Nat) : α :=
  (Memory.read? m cell).getD (ofBits bits)

/-- The color in a memory cell's unspecified bits. -/
def colorOfBits (b : BitVec 128) : Color := b.extractLsb' 0 24

/-- An entry of NEW in a memory cell's unspecified bits: none or any color. -/
def newOfBits (b : BitVec 128) : Option Color := if b.getLsbD 24 then some (colorOfBits b) else none

/-- A coefficient in a memory cell's unspecified bits. -/
def coefOfBits (b : BitVec 128) : Coef := { re := b.extractLsb' 0 64, im := b.extractLsb' 64 64 }

/-- A line table entry in a memory cell's unspecified bits. -/
def ltabOfBits (b : BitVec 128) : LtabEntry :=
  { offset := b.extractLsb' 0 32
    length := b.extractLsb' 32 32
    leaves := b.extractLsb' 64 16
    runs := b.extractLsb' 80 16
    sr := if b.getLsbD 112 then .inv else .full
    ax := if b.getLsbD 113 then .ang else .rad
    line := b.extractLsb' 96 16 }

/-- IMG[y][x] (R72). -/
def readImg (s : State) (y x : Nat) : Color :=
  cellOr colorOfBits s.mems.img (powerOnBits s .img (imgCell y x)) (imgCell y x)

/-- NEW[s][l] (R73). -/
def readNew (s : State) (sec l : Nat) : Option Color :=
  cellOr newOfBits s.mems.new (powerOnBits s .new (gridCell sec l)) (gridCell sec l)

/-- CONV[s] (R74). -/
def readConv (s : State) (sec : Nat) : Bool :=
  cellOr (fun b => b.getLsbD 0) s.mems.conv (powerOnBits s .conv sec) sec

/-- FULL[s][l] (R75). -/
def readFull (s : State) (sec l : Nat) : Color :=
  cellOr colorOfBits s.mems.full (powerOnBits s .full (gridCell sec l)) (gridCell sec l)

/-- COEF[ax][n][k][c] (R76). -/
def readCoef (s : State) (ax : Axis) (n k : Nat) (c : Channel) : Coef :=
  cellOr coefOfBits (match ax with | .rad => s.mems.coefRad | .ang => s.mems.coefAng)
    (powerOnBits s (coefName ax) (coefCell ax n k c)) (coefCell ax n k c)

/-- WIDE[s][l][c] as its 32-bit two's complement word (R77). -/
def readWide (s : State) (sec l : Nat) (c : Channel) : Word :=
  cellOr (fun b => b.extractLsb' 0 32) s.mems.wide (powerOnBits s .wide (wideCell sec l c)) (wideCell sec l c)

/-- INV[s][l] (R78). -/
def readInv (s : State) (sec l : Nat) : Color :=
  cellOr colorOfBits s.mems.inv (powerOnBits s .inv (gridCell sec l)) (gridCell sec l)

/-- CBUF[q] (R79). -/
def readCbuf (s : State) (q : Nat) : Byte :=
  cellOr (fun b => b.extractLsb' 0 8) s.mems.cbuf (powerOnBits s .cbuf q) q

/-- LTAB[e] (R80). -/
def readLtab (s : State) (e : Nat) : LtabEntry :=
  cellOr ltabOfBits s.mems.ltab (powerOnBits s .ltab e) e

/-- DBUF[p] (R81). -/
def readDbuf (s : State) (p : Nat) : Color :=
  cellOr colorOfBits s.mems.dbuf (powerOnBits s .dbuf p) p

/-- The four words of a line table entry (R80). -/
def ltabWord (e : LtabEntry) (w : Nat) : Word :=
  match w with
  | 0 => e.offset
  | 1 => e.length
  | 2 => e.leaves ++ e.runs
  | _ => bitAt (decide (e.sr = .inv)) 17 ||| bitAt (axisBit e.ax) 16 ||| e.line.setWidth 32

/-- NL, the number of lines of an axis of the current grid (R181). -/
def lineCount (s : State) (ax : Axis) : Nat :=
  match ax with
  | .rad => s.regs.gridS.toNat
  | .ang => s.regs.gridL.toNat

/-- M, the number of samples of a line of an axis (R181). -/
def lineLength (s : State) (ax : Axis) : Nat :=
  match ax with
  | .rad => s.regs.gridL.toNat
  | .ang => s.regs.gridS.toNat

/-- cell(ax, n, p): the sector and the light of sample p of line n (R181). -/
def lineCell (ax : Axis) (n p : Nat) : Nat × Nat :=
  match ax with
  | .rad => (n, p)
  | .ang => (p, n)

/-- COEF_N_ax (R68, R69). -/
def coefN (s : State) (ax : Axis) : Nat :=
  match ax with
  | .rad => s.regs.coefNRad.toNat
  | .ang => s.regs.coefNAng.toNat

/-- MAX_k, the channel maximum of CHMAX (R50, R160). -/
def channelMax (s : State) (k : Channel) : Nat :=
  match k with
  | .red => s.regs.rMax.toNat
  | .green => s.regs.gMax.toNat
  | .blue => s.regs.bMax.toNat

/-- The line n of an axis of a codec command's source grid (R210). -/
def codecLine (s : State) (sr : Source) (ax : Axis) (n : Nat) : List Color :=
  (List.range (lineLength s ax)).map fun p =>
    match sr with
    | .full => readFull s (lineCell ax n p).1 (lineCell ax n p).2
    | .inv => readInv s (lineCell ax n p).1 (lineCell ax n p).2

end Sys2Proof.Machine
end

