-- ==== Sys2Proof/Machine/Ops.lean ====
section
/-! DEFINITION. The named operations over the state: raising an error and acknowledging it (PGS's exception entry and
return, 60_exceptions.md R260, R280, R281), accepting and completing a command (43_control.md R250 to R252), the two
resets (70_reset_and_hazards.md R290), and writing the memories. -/

namespace Sys2Proof.Machine

/-- raise(code) for the command word w (R260): the first error since ERR was last cleared is recorded with its word,
ERR is set, nothing else changes. -/
def raiseFor (w : Word) (code : ErrCode) (s : State) : State :=
  { s with regs := { s.regs with
      errCode := if s.regs.status.err then s.regs.errCode else errCodeValue code
      errCmd := if s.regs.status.err then s.regs.errCmd else w
      status := { s.regs.status with err := true } } }

/-- raise(code) in an Engine step: the command word is the pending one (R252, R260). -/
def raise (code : ErrCode) (s : State) : State := raiseFor s.regs.pend code s

/-- A host write of v to STATUS (R41, R281): the W1C bits, and with ERR also ERRCODE and ERRCMD. This is the return
from an error. -/
def acknowledge (v : Word) (s : State) : State :=
  { s with regs := { s.regs with
      errCode := if v.getLsbD 2 then 0 else s.regs.errCode
      errCmd := if v.getLsbD 2 then 0 else s.regs.errCmd
      status := statusAfterW1C v s.regs.status } }

/-- A command word is accepted (R250). -/
def accept (w : Word) (s : State) : State :=
  { s with regs := { s.regs with
      lastCmd := w
      pend := w
      status := { s.regs.status with busy := true, done := false } } }

/-- The end of an Engine step (R252). -/
def complete (s : State) : State :=
  { s with regs := { s.regs with status := { s.regs.status with busy := false, done := true } } }

/-- An illegal host access (R91, R276). -/
def setBusErr (s : State) : State :=
  { s with regs := { s.regs with status := { s.regs.status with busErr := true } } }

/-- A host access refused because a command is pending (R110, R111, R276). -/
def setHaz (s : State) : State :=
  { s with regs := { s.regs with status := { s.regs.status with haz := true } } }

/-- A soft reset (R290): every register takes its reset value, so a pending command is discarded; the memories stay. -/
def softReset (s : State) : State := { s with regs := Regs.reset }

/-- A hardware reset (R290, R291): the registers as in a soft reset, and every memory cell unspecified anew. -/
def hardReset (s : State) : State :=
  { s with regs := Regs.reset, mems := Mems.unwritten, resets := s.resets + 1 }

/-- The registers changed by a function, everything else kept. -/
def mapRegs (f : Regs → Regs) (s : State) : State := { s with regs := f s.regs }

/-- The status changed by a function, everything else kept. -/
def mapStatus (f : Status → Status) (s : State) : State :=
  mapRegs (fun r => { r with status := f r.status }) s

/-- Cells of IMG written. -/
def writeImg (cells : List (Nat × Color)) (s : State) : State :=
  { s with mems := { s.mems with img := Memory.writeAll s.mems.img cells } }

/-- Cells of NEW written. -/
def writeNew (cells : List (Nat × Option Color)) (s : State) : State :=
  { s with mems := { s.mems with new := Memory.writeAll s.mems.new cells } }

/-- Cells of CONV written. -/
def writeConv (cells : List (Nat × Bool)) (s : State) : State :=
  { s with mems := { s.mems with conv := Memory.writeAll s.mems.conv cells } }

/-- Cells of FULL written. -/
def writeFull (cells : List (Nat × Color)) (s : State) : State :=
  { s with mems := { s.mems with full := Memory.writeAll s.mems.full cells } }

/-- Entries of the coefficient file of an axis written. -/
def writeCoef (ax : Axis) (cells : List (Nat × Coef)) (s : State) : State :=
  match ax with
  | .rad => { s with mems := { s.mems with coefRad := Memory.writeAll s.mems.coefRad cells } }
  | .ang => { s with mems := { s.mems with coefAng := Memory.writeAll s.mems.coefAng cells } }

/-- Entries of WIDE written. -/
def writeWide (cells : List (Nat × Word)) (s : State) : State :=
  { s with mems := { s.mems with wide := Memory.writeAll s.mems.wide cells } }

/-- Cells of INV written. -/
def writeInv (cells : List (Nat × Color)) (s : State) : State :=
  { s with mems := { s.mems with inv := Memory.writeAll s.mems.inv cells } }

/-- Bytes of CBUF written. -/
def writeCbuf (cells : List Host.Cell) (s : State) : State :=
  { s with mems := { s.mems with cbuf := Memory.writeAll s.mems.cbuf cells } }

/-- Entries of LTAB written. -/
def writeLtab (cells : List (Nat × LtabEntry)) (s : State) : State :=
  { s with mems := { s.mems with ltab := Memory.writeAll s.mems.ltab cells } }

/-- Cells of DBUF written. -/
def writeDbuf (cells : List (Nat × Color)) (s : State) : State :=
  { s with mems := { s.mems with dbuf := Memory.writeAll s.mems.dbuf cells } }

/-- A grid of shape S x L is adopted: its shape and CONV_COUNT are latched and the validity flags set (R165, R170). -/
def latchGrid (sCount lCount convCount : BitVec 16) (s : State) : State :=
  mapRegs (fun r => { r with gridS := sCount, gridL := lCount, convCount := convCount, status := statusNewGrid r.status }) s

/-- CLEN and LCNT become 0 (R223, R224). -/
def clearStream (s : State) : State := mapRegs (fun r => { r with clen := 0, lcnt := 0 }) s

end Sys2Proof.Machine
end

