-- ==== Sys2Proof/Machine/Codec.lean ====
section
/-! DEFINITION. The codec commands HENC_LINE, HENC_ALL, CBUF_CLEAR and HDEC (42_codec.md). -/

namespace Sys2Proof.Machine

/-- check_henc (R220). -/
def checkHenc (sr : Source) (s : State) : Option ErrCode :=
  match sr with
  | .full => if s.regs.status.gridValid then none else some .notSampled
  | .inv => if s.regs.status.invValid then none else some .noInv

/-- The LTAB entry of an appended line (R221). -/
def lineEntry (s : State) (buf : LineBuffer) (ax : Axis) (sr : Source) (n : Nat) : LtabEntry :=
  { offset := s.regs.clen
    length := BitVec.ofNat 32 buf.bytes.length
    leaves := BitVec.ofNat 16 buf.leaves
    runs := BitVec.ofNat 16 buf.runs
    sr := sr, ax := ax
    line := BitVec.ofNat 16 n }

/-- Bytes at consecutive offsets. -/
def bytesAt (o : Nat) (bytes : List Byte) : List Host.Cell := bytes.zipIdx.map fun b => (o + b.2, b.1)

/-- CLEN, LCNT and TRUNC8 after a line of M samples took `len` bytes (R221). -/
def latchAppend (len M : Nat) (s : State) : State :=
  mapRegs (fun r => { r with
    lcnt := r.lcnt + 1
    clen := r.clen + BitVec.ofNat 32 len
    status := { r.status with trunc8 := r.status.trunc8 || decide (256 < M) } }) s

/-- append(x, ax, sr, n) (R221), with its checks in order. -/
def appendLine (x : List Color) (ax : Axis) (sr : Source) (n : Nat) (s : State) : Except ErrCode State :=
  let buf := encodeLine x
  if s.regs.lcnt.toNat = Config.ltabMax then .error .ltabOverflow
  else if Config.cbufBytes < s.regs.clen.toNat + buf.bytes.length then .error .cbufOverflow
  else .ok (latchAppend buf.bytes.length x.length
    (writeLtab [(s.regs.lcnt.toNat, lineEntry s buf ax sr n)]
      (writeCbuf (bytesAt s.regs.clen.toNat buf.bytes) s)))

/-- HENC_LINE (R222). -/
def execHencLine (ax : Axis) (sr : Source) (idx : Nat) (s : State) : Host.Outcome State Fault Refusal :=
  match checkHenc sr s with
  | some e => .next (raise e s)
  | none =>
    if lineCount s ax ≤ idx then .next (raise .badIndex s)
    else match appendLine (codecLine s sr ax idx) ax sr idx s with
      | .ok t => .next t
      | .error e => .next (raise e s)

/-- The loop of HENC_ALL over the given lines (R223): on CBUF_OVERFLOW the stream is truncated before the error. -/
def hencLoop (ax : Axis) (sr : Source) : List Nat → State → State
  | [], s => s
  | n :: ns, s =>
    match appendLine (codecLine s sr ax n) ax sr n s with
    | .ok t => hencLoop ax sr ns t
    | .error .cbufOverflow => raise .cbufOverflow (clearStream s)
    | .error e => raise e s

/-- HENC_ALL (R223). -/
def execHencAll (ax : Axis) (sr : Source) (s : State) : Host.Outcome State Fault Refusal :=
  match checkHenc sr s with
  | some e => .next (raise e s)
  | none => .next (hencLoop ax sr (List.range (lineCount s ax)) (clearStream s))

/-- CBUF_CLEAR (R224). -/
def execCbufClear (s : State) : Host.Outcome State Fault Refusal := .next (clearStream s)

/-- check_hdec (R230). -/
def hdecOk (s : State) : Bool :=
  decide (1 ≤ s.regs.decLen.toNat) && decide (s.regs.decLen.toNat ≤ 256) &&
  decide (1 ≤ s.regs.decRuns.toNat) && decide (s.regs.decRuns.toNat ≤ s.regs.decLen.toNat)

/-- The decoder's read of CBUF[q] (R231): only below CLEN. -/
def decByte (s : State) (q : Nat) : Except ErrCode Byte :=
  if q < s.regs.clen.toNat then .ok (readCbuf s q) else .error .decTruncated

/-- DEC_END after a successful HDEC (R236). -/
def latchDec (decEnd : Nat) (s : State) : State := mapRegs (fun r => { r with decEnd := BitVec.ofNat 32 decEnd }) s

/-- HDEC (R236): nothing is written unless the whole line decodes. -/
def execHdec (s : State) : Host.Outcome State Fault Refusal :=
  if hdecOk s then
    match readLine (decByte s) s.regs.decOff.toNat s.regs.decRuns.toNat s.regs.decLen.toNat with
    | .ok d => .next (latchDec d.decEnd (writeDbuf d.cells s))
    | .error e => .next (raise e s)
  else .next (raise .badOperand s)

end Sys2Proof.Machine
end

