-- ==== Sys2Proof/Machine/Control.lean ====
section
/-! DEFINITION. The control command NOP (43_control.md R254). -/

namespace Sys2Proof.Machine

/-- NOP (R254): no effect; DONE is set by the Engine step (R252). -/
def execNop (s : State) : Host.Outcome State Fault Refusal := .next s

end Sys2Proof.Machine
end

