-- ==== Sys2Proof/Machine/F64.lean ====
section
/-! DEFINITION. IEEE 754 binary64 arithmetic on bits, round to nearest, ties to even (00_scope.md R17, R18). Finite
numbers are taken apart into an integer times a power of two, the operation is done exactly, and one function rounds. -/

namespace Sys2Proof

/-- The biased exponent field, bits 62..52. -/
def F64.expField (x : F64) : Nat := x.toNat / 2 ^ 52 % 2048

/-- The fraction field, bits 51..0. -/
def F64.fracField (x : F64) : Nat := x.toNat % 2 ^ 52

/-- The sign bit. -/
def F64.neg (x : F64) : Bool := x.getLsbD 63

/-- x is neither an infinity nor a NaN. -/
def F64.isFinite (x : F64) : Bool := decide (F64.expField x ≠ 2047)

/-- x is a NaN. -/
def F64.isNaN (x : F64) : Bool := decide (F64.expField x = 2047) && decide (F64.fracField x ≠ 0)

/-- x is +0.0 or -0.0. -/
def F64.isZero (x : F64) : Bool := decide (x.toNat % 2 ^ 63 = 0)

/-- The integer significand of a finite x: |x| = mant x * 2 ^ expo x. -/
def F64.mant (x : F64) : Nat :=
  if F64.expField x = 0 then F64.fracField x else 2 ^ 52 + F64.fracField x

/-- The exponent of the significand's unit of a finite x, at least -1074. -/
def F64.expo (x : F64) : Int := (max (F64.expField x) 1 : Nat) - 1075

/-- The significand with its sign. -/
def F64.smant (x : F64) : Int := if F64.neg x then -(F64.mant x : Int) else (F64.mant x : Int)

/-- +0.0 -/
def F64.zero : F64 := 0x0000000000000000
/-- 1.0 -/
def F64.one : F64 := 0x3FF0000000000000
/-- TWO_PI (R18). -/
def F64.twoPi : F64 := 0x401921FB54442D18
/-- PI64 (R18). -/
def F64.pi : F64 := 0x400921FB54442D18
/-- HALF (R18). -/
def F64.half : F64 := 0x3FE0000000000000
/-- TWO (R18). -/
def F64.two : F64 := 0x4000000000000000
/-- C128 (R18). -/
def F64.c128 : F64 := 0x4060000000000000
/-- The NaN the operations give. DESIGN CHOICE (assumption 4): the standard leaves a NaN's other bits open; no state
of PGS ever holds a NaN that an operation gave, so the choice is not visible. -/
def F64.nan : F64 := 0x7FF8000000000000

/-- The bits of a magnitude with a sign. -/
def F64.withSign (neg : Bool) (mag : Nat) : F64 :=
  BitVec.ofNat 64 (if neg then 2 ^ 63 + mag else mag)

/-- The signed infinity. -/
def F64.inf (neg : Bool) : F64 := F64.withSign neg (2047 * 2 ^ 52)

/-- The exponent of the last place kept when m * 2^e is rounded: 53 bits, but never below the subnormals' 2^-1074. -/
def F64.ulpExp (m : Nat) (e : Int) : Int := max (e + (Nat.log2 m : Int) - 52) (-1074)

/-- m / 2^sh to the nearest integer, ties to even; `sticky` says that the exact value lies strictly between m and m + 1. -/
def F64.roundShift (m sh : Nat) (sticky : Bool) : Nat :=
  if sh = 0 then m else
    let q := m >>> sh
    let r := m % (1 <<< sh)
    let h := 1 <<< (sh - 1)
    if r > h ∨ (r = h ∧ (sticky = true ∨ q % 2 = 1)) then q + 1 else q

/-- The F64 nearest to (-1)^neg * (m + d) * 2^e, where d = 0, or 0 < d < 1 when `sticky` (then m must have at least
55 bits): rounding to nearest, ties to even, overflow to infinity (R17). -/
def F64.round (neg : Bool) (m : Nat) (e : Int) (sticky : Bool) : F64 :=
  if m = 0 then F64.withSign neg 0 else
    let t := F64.ulpExp m e
    let q := if t ≤ e then m <<< (e - t).toNat else F64.roundShift m (t - e).toNat sticky
    F64.withSign neg (min ((t + 1074).toNat * 2 ^ 52 + q) (2047 * 2 ^ 52))

/-- f(n), the F64 of an integer (R17: exact for |n| < 2^53). -/
def F64.ofInt (n : Int) : F64 := F64.round (decide (n < 0)) n.natAbs 0 false

/-- f(n) of a natural number. -/
def F64.ofNat (n : Nat) : F64 := F64.round false n 0 false

/-- The F64 of n / 2, exact for n < 2^53: the h of R185. -/
def F64.ofHalves (n : Nat) : F64 := F64.round false n (-1) false

/-- x with its sign flipped. -/
def F64.flip (x : F64) : F64 := x ^^^ 0x8000000000000000

/-- fadd (R17): an exact sum of zero is +0.0 unless both operands are negative. -/
def F64.add (a b : F64) : F64 :=
  if F64.isNaN a || F64.isNaN b then F64.nan
  else if !F64.isFinite a then
    (if !F64.isFinite b && (F64.neg a != F64.neg b) then F64.nan else a)
  else if !F64.isFinite b then b
  else
    let e := min (F64.expo a) (F64.expo b)
    let n := F64.smant a * (1 <<< (F64.expo a - e).toNat : Nat) + F64.smant b * (1 <<< (F64.expo b - e).toNat : Nat)
    if n = 0 then F64.withSign (F64.neg a && F64.neg b) 0
    else F64.round (decide (n < 0)) n.natAbs e false

/-- fsub (R17). -/
def F64.sub (a b : F64) : F64 := F64.add a (F64.flip b)

/-- fmul (R17). -/
def F64.mul (a b : F64) : F64 :=
  let sg := F64.neg a != F64.neg b
  if F64.isNaN a || F64.isNaN b then F64.nan
  else if !F64.isFinite a || !F64.isFinite b then
    (if F64.isZero a || F64.isZero b then F64.nan else F64.inf sg)
  else F64.round sg (F64.mant a * F64.mant b) (F64.expo a + F64.expo b) false

/-- fdiv (R17): the quotient is taken to at least 57 bits, and the remainder decides `sticky`. -/
def F64.div (a b : F64) : F64 :=
  let sg := F64.neg a != F64.neg b
  if F64.isNaN a || F64.isNaN b then F64.nan
  else if !F64.isFinite a then (if !F64.isFinite b then F64.nan else F64.inf sg)
  else if !F64.isFinite b then F64.withSign sg 0
  else if F64.isZero b then (if F64.isZero a then F64.nan else F64.inf sg)
  else
    let n := F64.mant a <<< 110
    F64.round sg (n / F64.mant b) (F64.expo a - 110 - F64.expo b) (decide (n % F64.mant b ≠ 0))

/-- floor(x): toward minus infinity, exact and unbounded; 0 for a NaN or an infinity (R17). -/
def F64.floor (x : F64) : Int :=
  if !F64.isFinite x then 0
  else if 0 ≤ F64.expo x then F64.smant x * (1 <<< (F64.expo x).toNat : Nat)
  else Int.fdiv (F64.smant x) (1 <<< (-F64.expo x).toNat : Nat)

/-- trunc(x): toward zero, exact and unbounded; 0 for a NaN or an infinity (R17). -/
def F64.trunc (x : F64) : Int :=
  if !F64.isFinite x then 0
  else if 0 ≤ F64.expo x then F64.smant x * (1 <<< (F64.expo x).toNat : Nat)
  else Int.tdiv (F64.smant x) (1 <<< (-F64.expo x).toNat : Nat)

/-- x is finite and greater than 0: the requirement on GAMMA (R61, R151). -/
def F64.posFinite (x : F64) : Bool := F64.isFinite x && !F64.neg x && !F64.isZero x

/-- x is in [-1, 1] (R19 P1). -/
def F64.inUnitBall (x : F64) : Bool := decide (x.toNat % 2 ^ 63 ≤ 0x3FF0000000000000)

/-- x is in [0, 1], as a number: -0.0 counts as 0 (R19 P3). -/
def F64.inUnit (x : F64) : Bool := F64.inUnitBall x && (!F64.neg x || F64.isZero x)

end Sys2Proof
end

