-- ==== Sys2Proof/Machine/Numeric.lean ====
section
/-! DEFINITION. COS64, SIN64 and POW64: the implementation's own functions (Config), held to properties P1 to P5 of
00_scope.md R19. Every function with those properties is one of these for some value of Config, and each of these has
them, so nothing is assumed and nothing is chosen. -/

namespace Sys2Proof

/-- A value held to [-1, 1]. -/
def clipUnitBall (v : F64) : F64 := if F64.inUnitBall v then v else F64.zero

/-- A value held to [0, 1]. -/
def clipUnit (v : F64) : F64 := if F64.inUnit v then v else F64.zero

/-- COS64 with P1 and P2 (R19). -/
def cos64 (x : F64) : F64 :=
  if x = F64.zero then F64.one
  else if F64.isFinite x then clipUnitBall (Config.cosFree x)
  else Config.cosFree x

/-- SIN64 with P1 and P2 (R19). -/
def sin64 (x : F64) : F64 :=
  if x = F64.zero then F64.zero
  else if F64.isFinite x then clipUnitBall (Config.sinFree x)
  else Config.sinFree x

/-- The odd part of m * 2^e: (m', e') with m * 2^e = m' * 2^e' and m' odd, for 0 < m < 2^fuel. -/
def oddPart : Nat → Nat → Int → Nat × Int
  | 0, m, e => (m, e)
  | fuel + 1, m, e => if m % 2 = 0 then oddPart fuel (m / 2) (e + 1) else (m, e)

/-- The integer square root of m < 2^54, bit by bit. -/
def isqrt (m : Nat) : Nat :=
  (List.range 27).foldr (fun b r => if (r + 2 ^ b) * (r + 2 ^ b) ≤ m then r + 2 ^ b else r) 0

/-- The 2^t-th root of m * 2^e (m odd), when it is again an odd integer times a power of two. -/
def dyadicRoot : Nat → Nat → Int → Option (Nat × Int)
  | 0, m, e => some (m, e)
  | t + 1, m, e =>
    if e % 2 = 0 ∧ isqrt m * isqrt m = m then dyadicRoot t (isqrt m) (e / 2) else none

/-- (m * 2^e)^k for m odd, m * 2^e < 1 and k > 0, when it is an F64: it must have at most 53 bits (so k <= 33 when
m >= 3) and no bit below 2^-1074. -/
def dyadicPow (m : Nat) (e : Int) (k : Nat) : Option F64 :=
  if e * k < -1074 then none
  else if m = 1 then some (F64.round false 1 (e * k) false)
  else if 33 < k then none
  else if m ^ k < 2 ^ 53 then some (F64.round false (m ^ k) (e * k) false)
  else none

/-- The real number x^y when it is exactly an F64 (R19 P5), for 0 < x < 1 and finite y > 0: y = k * 2^j with k odd, so
x^y is rational only if x has a 2^(-j)-th root that is rational. -/
def exactPow (x y : F64) : Option F64 :=
  let xo := oddPart 53 (F64.mant x) (F64.expo x)
  let yo := oddPart 53 (F64.mant y) (F64.expo y)
  match dyadicRoot (-yo.2).toNat xo.1 xo.2 with
  | none => none
  | some r => dyadicPow r.1 r.2 (yo.1 <<< yo.2.toNat)

/-- POW64 with P3, P4 and P5 (R19). At x = -0.0, where the real power 0 is two F64s, the sign is the implementation's. -/
def pow64 (x y : F64) : F64 :=
  if F64.inUnit x && F64.posFinite y then
    if x = F64.one then F64.one
    else if x = F64.zero then F64.zero
    else if F64.isZero x then (if F64.isZero (Config.powFree x y) then Config.powFree x y else F64.zero)
    else match exactPow x y with
      | some r => r
      | none => clipUnit (Config.powFree x y)
  else Config.powFree x y

end Sys2Proof
end

