-- ==== Sys2Proof/Machine/Sampler.lean ====
section
/-! DEFINITION. The sampler and grid commands SAMPLE and GRID_LOAD (40_sampler.md). -/

namespace Sys2Proof.Machine

/-- The shape check shared by SAMPLE and GRID_LOAD: 1 <= S <= S_MAX and 1 <= L <= L_MAX (R151, R170). -/
def shapeOk (s : State) : Bool :=
  decide (1 ≤ s.regs.cfgS.toNat) && decide (s.regs.cfgS.toNat ≤ Config.sMax) &&
  decide (1 ≤ s.regs.cfgL.toNat) && decide (s.regs.cfgL.toNat ≤ Config.lMax)

/-- check_sample_config (R151), in its order. -/
def sampleConfigOk (s : State) : Bool :=
  decide (1 ≤ s.regs.imgW.toNat) && decide (s.regs.imgW.toNat ≤ Config.wMax) &&
  decide (1 ≤ s.regs.imgH.toNat) && decide (s.regs.imgH.toNat ≤ Config.hMax) &&
  shapeOk s &&
  decide (s.regs.sampleRad.toNat ≤ Config.radMax) &&
  F64.posFinite s.regs.gamma &&
  F64.isFinite s.regs.cx && F64.isFinite s.regs.cy && F64.isFinite s.regs.rin && F64.isFinite s.regs.rout

/-- theta(s) (R152). -/
def sectorAngle (s : State) (sec : Nat) : F64 :=
  F64.div (F64.mul F64.twoPi (F64.ofNat sec)) (F64.ofNat s.regs.cfgS.toNat)

/-- radius(l) (R153). -/
def lightRadius (s : State) (l : Nat) : F64 :=
  F64.add s.regs.rin
    (F64.div (F64.mul (F64.sub s.regs.rout s.regs.rin) (F64.ofNat l)) (F64.ofNat s.regs.cfgL.toNat))

/-- cx(s, l) (R154, R155). -/
def centreX (s : State) (sec l : Nat) : Int :=
  F64.floor (F64.add s.regs.cx (F64.mul (lightRadius s l) (cos64 (sectorAngle s sec))))

/-- cy(s, l) (R154, R155). -/
def centreY (s : State) (sec l : Nat) : Int :=
  F64.floor (F64.add s.regs.cy (F64.mul (lightRadius s l) (sin64 (sectorAngle s sec))))

/-- The offsets -RAD, ..., RAD (R156). -/
def sampleOffsets (s : State) : List Int :=
  (List.range (2 * s.regs.sampleRad.toNat + 1)).map fun i => (i : Int) - s.regs.sampleRad.toNat

/-- The pixels of the neighbourhood of a centre, clamped to the edge, each position once (R156). -/
def neighbourhood (s : State) (cx cy : Int) : List Color :=
  (sampleOffsets s).flatMap fun dy => (sampleOffsets s).map fun dx =>
    readImg s (clamp (cy + dy) 0 (s.regs.imgH.toNat - 1)).toNat (clamp (cx + dx) 0 (s.regs.imgW.toNat - 1)).toNat

/-- sum_k (R157). -/
def channelSum (k : Channel) (pixels : List Color) : Nat := (pixels.map fun c => (channelOf k c).toNat).sum

/-- A, the neighbourhood's area (R157). -/
def sampleArea (s : State) : Nat := (2 * s.regs.sampleRad.toNat + 1) * (2 * s.regs.sampleRad.toNat + 1)

/-- q_k from sum_k: normalise, gamma, rescale, truncate (R158 to R160). -/
def channelValue (s : State) (k : Channel) (sum : Nat) : BitVec 8 :=
  let n := F64.div (F64.ofNat sum) (F64.ofNat (255 * sampleArea s))
  let v := F64.mul (pow64 n s.regs.gamma) (F64.ofNat (channelMax s k))
  BitVec.ofInt 8 (clamp (F64.trunc v) 0 255)

/-- The color of a neighbourhood (R157 to R161). -/
def colorOfPixels (s : State) (pixels : List Color) : Color :=
  pack (channelValue s .red (channelSum .red pixels)) (channelValue s .green (channelSum .green pixels))
    (channelValue s .blue (channelSum .blue pixels))

/-- sample_color(s, l) (R161). -/
def sampleColor (s : State) (sec l : Nat) : Color :=
  colorOfPixels s (neighbourhood s (centreX s sec l) (centreY s sec l))

/-- SC[0][l], ..., SC[S-1][l]: one light's colors in sector order. -/
def sampleColumn (s : State) (l : Nat) : List Color :=
  (List.range s.regs.cfgS.toNat).map fun sec => sampleColor s sec l

/-- capture after the first sector (R162): a color is recorded when it differs from the sector before. -/
def captureFrom : Color → List Color → List (Option Color)
  | _, [] => []
  | prev, c :: x => (if c ≠ prev then some c else none) :: captureFrom c x

/-- capture along one light (R162): sector 0 always records. -/
def captureColumn : List Color → List (Option Color)
  | [] => []
  | c :: x => some c :: captureFrom c x

/-- expand along one light after a sector whose FULL color is `prev` (R164): the new color, else the one before. -/
def expandFrom : Color → List (Option Color) → List Color
  | _, [] => []
  | prev, v :: x => v.getD prev :: expandFrom (v.getD prev) x

/-- expand along one light (R164): 0 before the first color. -/
def expandColumn (x : List (Option Color)) : List Color := expandFrom 0 x

/-- The NEW columns of the pass, one for each light. -/
def newColumns (s : State) : List (List (Option Color)) :=
  (List.range s.regs.cfgL.toNat).map fun l => captureColumn (sampleColumn s l)

/-- The cells (s, l) of a list of columns, column l holding the values of sectors 0, 1, ... (R167: only these). -/
def columnCells {α : Type} (columns : List (List α)) : List (Nat × α) :=
  columns.zipIdx.flatMap fun col => col.1.zipIdx.map fun v => (gridCell v.2 col.2, v.1)

/-- converted(s) (R163): some light has a new color at the sector. -/
def convertedAt (columns : List (List (Option Color))) (sec : Nat) : Bool :=
  columns.any fun col => (col.getD sec none).isSome

/-- The converted sectors among the first n. -/
def convertedCount (columns : List (List (Option Color))) (n : Nat) : Nat :=
  ((List.range n).filter fun sec => convertedAt columns sec).length

/-- A whole successful SAMPLE pass (R150, R165). -/
def samplePass (s : State) : State :=
  let cols := newColumns s
  let n := s.regs.cfgS.toNat
  latchGrid s.regs.cfgS s.regs.cfgL (BitVec.ofNat 16 (convertedCount cols n))
    (writeConv ((List.range n).map fun sec => (sec, convertedAt cols sec))
      (writeFull (columnCells (cols.map expandColumn))
        (writeNew (columnCells cols) s)))

/-- SAMPLE (R150). -/
def execSample (s : State) : Host.Outcome State Fault Refusal :=
  if sampleConfigOk s then .next (samplePass s) else .next (raise .badConfig s)

/-- Every cell (s, l) of the configured shape S x L. -/
def shapeCells (s : State) : List (Nat × Nat) :=
  (List.range s.regs.cfgS.toNat).flatMap fun sec => (List.range s.regs.cfgL.toNat).map fun l => (sec, l)

/-- A whole successful GRID_LOAD (R170): FULL is adopted as it stands. -/
def gridLoadPass (s : State) : State :=
  latchGrid s.regs.cfgS s.regs.cfgL 0
    (writeConv ((List.range s.regs.cfgS.toNat).map fun sec => (sec, false))
      (writeNew ((shapeCells s).map fun c => (gridCell c.1 c.2, none)) s))

/-- GRID_LOAD (R170). -/
def execGridLoad (s : State) : Host.Outcome State Fault Refusal :=
  if shapeOk s then .next (gridLoadPass s) else .next (raise .badConfig s)

end Sys2Proof.Machine
end

