-- ==== Sys2Proof/Machine/Transform.lean ====
section
/-! DEFINITION. The block frequency transform commands FWD and INV (41_transform.md). -/

namespace Sys2Proof.Machine

/-- u_k(n, p), the centred sample (R183). -/
def centredSample (s : State) (ax : Axis) (n p : Nat) (k : Channel) : Int :=
  ((channelOf k (readFull s (lineCell ax n p).1 (lineCell ax n p).2)).toNat : Int) - 128

/-- ANGLE_F(i, j, N) (R185). -/
def angleF (i j N : Nat) : F64 := F64.div (F64.mul F64.twoPi (F64.ofNat (i * j))) (F64.ofNat N)

/-- ANGLE_C(i, j, N) (R185), with h = i (2j + 1) / 2. -/
def angleC (i j N : Nat) : F64 := F64.div (F64.mul F64.pi (F64.ofHalves (i * (2 * j + 1)))) (F64.ofNat N)

/-- fourier_coef(x, i, N) (R186): the sums run over increasing j from +0.0. -/
def fourierCoef (x : List Int) (i N : Nat) : Coef :=
  x.zipIdx.foldl (fun acc u =>
    { re := F64.add acc.re (F64.mul (F64.ofInt u.1) (cos64 (angleF i u.2 N)))
      im := F64.add acc.im (F64.mul (F64.ofInt u.1) (sin64 (angleF i u.2 N))) })
    { re := F64.zero, im := F64.zero }

/-- cosine_coef(x, i, N) (R187). -/
def cosineCoef (x : List Int) (i N : Nat) : Coef :=
  { re := x.zipIdx.foldl (fun acc u => F64.add acc (F64.mul (F64.ofInt u.1) (cos64 (angleC i u.2 N)))) F64.zero
    im := F64.zero }

/-- The coefficient i of a block in a basis (R180). -/
def blockCoef (bs : Basis) (x : List Int) (i N : Nat) : Coef :=
  match bs with
  | .fourier => fourierCoef x i N
  | .cosine => cosineCoef x i N

/-- The samples x[0..N-1] of block b of line n (R180, R184). -/
def blockSamples (s : State) (ax : Axis) (n b N : Nat) (k : Channel) : List Int :=
  (List.range N).map fun j => centredSample s ax n (b * N + j) k

/-- NB, the blocks of a line of M samples (R184). -/
def blockCount (M N : Nat) : Nat := M / N

/-- The cells COEF[ax][n][k][c] FWD writes: n < NL, k < NB·N, every channel, and no other (R188). -/
def fwdCells (s : State) (ax : Axis) (bs : Basis) (N : Nat) : List (Nat × Coef) :=
  (List.range (lineCount s ax)).flatMap fun n =>
    (List.range (blockCount (lineLength s ax) N)).flatMap fun b =>
      channels.flatMap fun k =>
        let x := blockSamples s ax n b N k
        (List.range N).map fun i => (coefCell ax n (b * N + i) k, blockCoef bs x i N)

/-- FWD's registers: COEF_N, COEF_BASIS and COEF_VALID of its axis (R180). -/
def latchFwd (ax : Axis) (bs : Basis) (s : State) : State :=
  mapRegs (fun r =>
    match ax with
    | .rad => { r with coefNRad := r.ftN, status := statusAfterFwd .rad bs r.status }
    | .ang => { r with coefNAng := r.ftN, status := statusAfterFwd .ang bs r.status }) s

/-- check_fwd (R182), in its order. -/
def checkFwd (s : State) : Option ErrCode :=
  if !s.regs.status.gridValid then some .notSampled
  else if !(decide (1 ≤ s.regs.ftN.toNat) && decide (s.regs.ftN.toNat ≤ Config.nMax)) then some .badConfig
  else none

/-- A whole successful FWD (R180). -/
def fwdPass (ax : Axis) (bs : Basis) (s : State) : State :=
  latchFwd ax bs (writeCoef ax (fwdCells s ax bs s.regs.ftN.toNat) s)

/-- FWD (R180). -/
def execFwd (ax : Axis) (bs : Basis) (s : State) : Host.Outcome State Fault Refusal :=
  match checkFwd s with
  | some e => .next (raise e s)
  | none => .next (fwdPass ax bs s)

/-- keep(i) (R190): both bounds are closed in both modes. -/
def keepIndex (s : State) (i : Nat) : Bool :=
  if s.regs.filtInclusive then decide (s.regs.filtStart.toNat ≤ i) && decide (i ≤ s.regs.filtEnd.toNat)
  else decide (i ≤ s.regs.filtStart.toNat) || decide (s.regs.filtEnd.toNat ≤ i)

/-- fourier_inv(X, j, N) (R192). -/
def fourierInv (keep : Nat → Bool) (X : List Coef) (j N : Nat) : F64 :=
  F64.div
    (X.zipIdx.foldl (fun acc c =>
      if keep c.2 then
        F64.add acc (F64.add (F64.mul c.1.re (cos64 (angleF c.2 j N))) (F64.mul c.1.im (sin64 (angleF c.2 j N))))
      else acc) F64.zero)
    (F64.ofNat N)

/-- The contribution of index i to cosine_inv (R193). -/
def cosineTerm (X : Coef) (i j N : Nat) : F64 :=
  if i = 0 then F64.mul X.re F64.half else F64.mul X.re (cos64 (angleC i j N))

/-- cosine_inv(X, j, N) (R193). -/
def cosineInv (keep : Nat → Bool) (X : List Coef) (j N : Nat) : F64 :=
  F64.div
    (F64.mul (X.zipIdx.foldl (fun acc c => if keep c.2 then F64.add acc (cosineTerm c.1 c.2 j N) else acc) F64.zero)
      F64.two)
    (F64.ofNat N)

/-- The inverse of a block in a basis at position j (R191). -/
def blockInv (bs : Basis) (keep : Nat → Bool) (X : List Coef) (j N : Nat) : F64 :=
  match bs with
  | .fourier => fourierInv keep X j N
  | .cosine => cosineInv keep X j N

/-- The coefficients X[0..N-1] of block b of line n (R191). -/
def blockCoefs (s : State) (ax : Axis) (n b N : Nat) (k : Channel) : List Coef :=
  (List.range N).map fun i => readCoef s ax n (b * N + i) k

/-- w for position p of line n (R194): the reconstructed value with 128 added back, truncated; 0 where the position
was dropped (R195). -/
def invSample (s : State) (ax : Axis) (n p : Nat) (k : Channel) : Int :=
  if p < blockCount (lineLength s ax) (coefN s ax) * coefN s ax then
    F64.trunc (F64.add
      (blockInv (coefBasis ax s.regs.status) (keepIndex s)
        (blockCoefs s ax n (p / coefN s ax) (coefN s ax) k) (p % coefN s ax) (coefN s ax))
      F64.c128)
  else 0

/-- A cell INV reconstructs: its place and its three values before clamping. -/
structure Recon where
  sec : Nat
  light : Nat
  r : Int
  g : Int
  b : Int
  deriving DecidableEq, Repr

/-- The reconstruction of position p of line n (R194, R195). -/
def reconAt (s : State) (ax : Axis) (n p : Nat) : Recon :=
  { sec := (lineCell ax n p).1, light := (lineCell ax n p).2
    r := invSample s ax n p .red, g := invSample s ax n p .green, b := invSample s ax n p .blue }

/-- Every cell of the grid, line by line (R191). -/
def recons (s : State) (ax : Axis) : List Recon :=
  (List.range (lineCount s ax)).flatMap fun n => (List.range (lineLength s ax)).map fun p => reconAt s ax n p

/-- The WIDE entries of a cell: signed 32-bit values (R194). -/
def wideCells (v : Recon) : List (Nat × Word) :=
  [ (wideCell v.sec v.light .red, BitVec.ofInt 32 v.r),
    (wideCell v.sec v.light .green, BitVec.ofInt 32 v.g),
    (wideCell v.sec v.light .blue, BitVec.ofInt 32 v.b) ]

/-- A channel value clamped to [0, 255] (R194). -/
def clamp8 (w : Int) : BitVec 8 := BitVec.ofInt 8 (clamp w 0 255)

/-- The INV entry of a cell (R194); at a dropped position the values are 0, so it is 0x000000 (R195). -/
def invColorCell (v : Recon) : Nat × Color :=
  (gridCell v.sec v.light, pack (clamp8 v.r) (clamp8 v.g) (clamp8 v.b))

/-- INV's registers (R191). -/
def latchInv (ax : Axis) (len : Nat) (s : State) : State :=
  mapRegs (fun r => { r with invLen := BitVec.ofNat 16 len, status := statusAfterInv ax r.status }) s

/-- A whole successful INV (R191). -/
def invPass (ax : Axis) (s : State) : State :=
  let vs := recons s ax
  latchInv ax (blockCount (lineLength s ax) (coefN s ax) * coefN s ax)
    (writeInv (vs.map invColorCell) (writeWide (vs.flatMap wideCells) s))

/-- INV (R191). -/
def execInv (ax : Axis) (s : State) : Host.Outcome State Fault Refusal :=
  if coefValid ax s.regs.status then .next (invPass ax s) else .next (raise .noCoef s)

end Sys2Proof.Machine
end

