-- ==== Sys2Proof/Machine/Dispatch.lean ====
section
/-! DEFINITION. One meaning for each command (43_control.md R253). -/

namespace Sys2Proof.Machine

def exec (i : Instr) (s : State) : Host.Outcome State Fault Refusal :=
  match i with
  | .nop => Sys2Proof.Machine.execNop s
  | .sample => Sys2Proof.Machine.execSample s
  | .fwd ax bs => Sys2Proof.Machine.execFwd ax bs s
  | .inv ax => Sys2Proof.Machine.execInv ax s
  | .hencLine ax sr idx => Sys2Proof.Machine.execHencLine ax sr idx s
  | .hencAll ax sr => Sys2Proof.Machine.execHencAll ax sr s
  | .hdec => Sys2Proof.Machine.execHdec s
  | .cbufClear => Sys2Proof.Machine.execCbufClear s
  | .gridLoad => Sys2Proof.Machine.execGridLoad s

end Sys2Proof.Machine
end

