-- ==== Sys2Proof/Machine/AddressMap.lean ====
section
/-! DEFINITION. The address map of the host port (20_memory.md R91 to R95): what an offset names, and whether a host may
write it. -/

namespace Sys2Proof.Machine

/-- The registers as the host port sees them: one name for each mapped word of the register region (R94). -/
inductive Reg where
  | id | paramSL | paramWH | paramNR | paramCbuf | paramLtab
  | ctrl | status | errCode | cmd | errCmd
  | imgW | imgH | cfgS | cfgL | sampleRad | chMax | ftN | filtStart | filtEnd | filtMode
  | clen | lcnt | decOff | decRuns | decLen | decEnd
  | gammaLo | gammaHi | cxLo | cxHi | cyLo | cyHi | rinLo | rinHi | routLo | routHi
  | gridS | gridL | coefNRad | coefNAng | invLen | convCount
  deriving DecidableEq, Repr

/-- The offsets of the identification, control and status registers (10_state.md R34 to R44). -/
def controlRegs : List (Nat × Reg) :=
  [ (0x000, .id), (0x004, .paramSL), (0x008, .paramWH), (0x00C, .paramNR), (0x010, .paramCbuf), (0x014, .paramLtab),
    (0x020, .ctrl), (0x024, .status), (0x028, .errCode), (0x02C, .cmd), (0x030, .errCmd) ]

/-- The offsets of the configuration and stream registers (R45 to R60). -/
def configRegs : List (Nat × Reg) :=
  [ (0x040, .imgW), (0x044, .imgH), (0x048, .cfgS), (0x04C, .cfgL), (0x050, .sampleRad), (0x054, .chMax),
    (0x058, .ftN), (0x05C, .filtStart), (0x060, .filtEnd), (0x064, .filtMode), (0x068, .clen), (0x06C, .lcnt),
    (0x070, .decOff), (0x074, .decRuns), (0x078, .decLen), (0x07C, .decEnd) ]

/-- The offsets of the halves of the F64 registers (R61 to R65). -/
def f64Regs : List (Nat × Reg) :=
  [ (0x080, .gammaLo), (0x084, .gammaHi), (0x088, .cxLo), (0x08C, .cxHi), (0x090, .cyLo), (0x094, .cyHi),
    (0x098, .rinLo), (0x09C, .rinHi), (0x0A0, .routLo), (0x0A4, .routHi) ]

/-- The offsets of the latched registers (R66 to R71). -/
def latchedRegs : List (Nat × Reg) :=
  [ (0x0B0, .gridS), (0x0B4, .gridL), (0x0B8, .coefNRad), (0x0BC, .coefNAng), (0x0C0, .invLen), (0x0C4, .convCount) ]

/-- The offset of every register (R94: no other offset of the region is mapped). -/
def regTable : List (Nat × Reg) := controlRegs ++ configRegs ++ f64Regs ++ latchedRegs

/-- The offset of a register (R137). -/
def regOffset : Reg → Nat
  | .id => 0x000 | .paramSL => 0x004 | .paramWH => 0x008 | .paramNR => 0x00C | .paramCbuf => 0x010 | .paramLtab => 0x014
  | .ctrl => 0x020 | .status => 0x024 | .errCode => 0x028 | .cmd => 0x02C | .errCmd => 0x030
  | .imgW => 0x040 | .imgH => 0x044 | .cfgS => 0x048 | .cfgL => 0x04C | .sampleRad => 0x050 | .chMax => 0x054
  | .ftN => 0x058 | .filtStart => 0x05C | .filtEnd => 0x060 | .filtMode => 0x064 | .clen => 0x068 | .lcnt => 0x06C
  | .decOff => 0x070 | .decRuns => 0x074 | .decLen => 0x078 | .decEnd => 0x07C
  | .gammaLo => 0x080 | .gammaHi => 0x084 | .cxLo => 0x088 | .cxHi => 0x08C | .cyLo => 0x090 | .cyHi => 0x094
  | .rinLo => 0x098 | .rinHi => 0x09C | .routLo => 0x0A0 | .routHi => 0x0A4
  | .gridS => 0x0B0 | .gridL => 0x0B4 | .coefNRad => 0x0B8 | .coefNAng => 0x0BC | .invLen => 0x0C0 | .convCount => 0x0C4

/-- What a mapped offset names (R93). -/
inductive Target where
  | reg (r : Reg)
  /-- word k of the CONV bitmap (R102) -/
  | conv (k : Nat)
  /-- word w of LTAB[e] (R108) -/
  | ltab (e w : Nat)
  /-- DBUF[p] (R109) -/
  | dbuf (p : Nat)
  /-- the bytes CBUF[4q] to CBUF[4q+3] (R107) -/
  | cbuf (q : Nat)
  /-- IMG[y][x] (R98) -/
  | img (y x : Nat)
  /-- FULL[s][l] (R99) -/
  | full (s l : Nat)
  /-- FULL[s][l] by its ring view (R100) -/
  | ring (l s : Nat)
  /-- NEW[s][l] (R101) -/
  | new (s l : Nat)
  /-- INV[s][l] (R103) -/
  | inv (s l : Nat)
  /-- WIDE[s][l][c] (R104) -/
  | wide (s l : Nat) (c : Channel)
  /-- half h (true = high word) of re (im = false) or im (im = true) of COEF[ax][n][k][c] (R105) -/
  | coef (ax : Axis) (n k : Nat) (c : Channel) (im high : Bool)
  /-- REPROJ[ax] (im = false) or IMPROJ[ax] (im = true) at (n, k) (R106) -/
  | proj (ax : Axis) (im : Bool) (n k : Nat)
  deriving DecidableEq, Repr

/-- The channel c of a WIDE or COEF offset; c = 3 is unmapped (R104, R105). -/
def channelAt (c : Nat) : Option Channel :=
  match c with
  | 0 => some .red
  | 1 => some .green
  | 2 => some .blue
  | _ => none

/-- A target that exists when a bound holds (R93: a word whose index breaks a bound is unmapped). -/
def within (b : Bool) (t : Target) : Option Target := if b then some t else none

/-- The bounds s < S_MAX, l < L_MAX of the grid windows (R93). -/
def cellInBounds (s l : Nat) : Bool := decide (s < Config.sMax) && decide (l < Config.lMax)

/-- The bounds of line n and entry k of a coefficient file (R93). -/
def coefInBounds (ax : Axis) (n k : Nat) : Bool :=
  match ax with
  | .rad => cellInBounds n k
  | .ang => cellInBounds k n

/-- The lines' stride in the coefficient windows: 256 for RAD, 4096 for ANG (R93). -/
def coefStride : Axis → Nat
  | .rad => 256
  | .ang => 4096

/-- The COEF word at word index i of an axis's window (R105): 16 words for an entry, 4 for a channel. -/
def coefTarget (ax : Axis) (i : Nat) : Option Target :=
  match channelAt (i / 4 % 4) with
  | some c =>
    within (coefInBounds ax (i / 16 / coefStride ax) (i / 16 % coefStride ax))
      (.coef ax (i / 16 / coefStride ax) (i / 16 % coefStride ax) c (decide (i / 2 % 2 = 1)) (decide (i % 2 = 1)))
  | none => none

/-- The projection word at word index i of an axis's window (R106). -/
def projTarget (ax : Axis) (im : Bool) (i : Nat) : Option Target :=
  within (coefInBounds ax (i / coefStride ax) (i % coefStride ax)) (.proj ax im (i / coefStride ax) (i % coefStride ax))

/-- The WIDE word at word index i (R104). -/
def wideTarget (i : Nat) : Option Target :=
  match channelAt (i % 4) with
  | some c => within (cellInBounds (i / 4 / 256) (i / 4 % 256)) (.wide (i / 4 / 256) (i / 4 % 256) c)
  | none => none

/-- What a 4-byte aligned offset names, region by region (R93, R94); none where it is unmapped. -/
def mapOffset (off : Nat) : Option Target :=
  if off < 0x1000 then (regTable.lookup off).map .reg
  else if off < 0x1200 then
    let k := (off - 0x1000) / 4
    within (decide (k < (Config.sMax + 31) / 32)) (.conv k)
  else if off < 0x10000 then none
  else if off < 0x20000 then
    let i := (off - 0x10000) / 4
    within (decide (i / 4 < Config.ltabMax)) (.ltab (i / 4) (i % 4))
  else if off < 0x20400 then some (.dbuf ((off - 0x20000) / 4))
  else if off < 0x1000000 then none
  else if off < 0x2000000 then
    let q := (off - 0x1000000) / 4
    within (decide (4 * q + 3 < Config.cbufBytes)) (.cbuf q)
  else if off < 0x3000000 then
    let i := (off - 0x2000000) / 4
    within (decide (i % 2048 < Config.wMax) && decide (i / 2048 < Config.hMax)) (.img (i / 2048) (i % 2048))
  else if off < 0x3400000 then
    let i := (off - 0x3000000) / 4
    within (cellInBounds (i / 256) (i % 256)) (.full (i / 256) (i % 256))
  else if off < 0x3800000 then
    let i := (off - 0x3400000) / 4
    within (cellInBounds (i % 4096) (i / 4096)) (.ring (i / 4096) (i % 4096))
  else if off < 0x3C00000 then
    let i := (off - 0x3800000) / 4
    within (cellInBounds (i / 256) (i % 256)) (.new (i / 256) (i % 256))
  else if off < 0x4000000 then
    let i := (off - 0x3C00000) / 4
    within (cellInBounds (i / 256) (i % 256)) (.inv (i / 256) (i % 256))
  else if off < 0x5000000 then wideTarget ((off - 0x4000000) / 4)
  else if off < 0x8000000 then none
  else if off < 0xC000000 then coefTarget .rad ((off - 0x8000000) / 4)
  else if off < 0x10000000 then coefTarget .ang ((off - 0xC000000) / 4)
  else if off < 0x10400000 then projTarget .rad false ((off - 0x10000000) / 4)
  else if off < 0x10800000 then projTarget .rad true ((off - 0x10400000) / 4)
  else if off < 0x10C00000 then projTarget .ang false ((off - 0x10800000) / 4)
  else if off < 0x11000000 then projTarget .ang true ((off - 0x10C00000) / 4)
  else none

/-- What a transaction of a width at an offset names; none for an illegal width, alignment or offset (R91, R92, R115). -/
def targetOf (off size : Nat) : Option Target :=
  if size = 4 ∧ off % 4 = 0 then mapOffset off else none

/-- The registers with a writable or W1C field (R95). -/
def regWritable : Reg → Bool
  | .id | .paramSL | .paramWH | .paramNR | .paramCbuf | .paramLtab => false
  | .errCode | .errCmd | .lcnt | .decEnd => false
  | .gridS | .gridL | .coefNRad | .coefNAng | .invLen | .convCount => false
  | .ctrl | .status | .cmd => true
  | .imgW | .imgH | .cfgS | .cfgL | .sampleRad | .chMax | .ftN | .filtStart | .filtEnd | .filtMode => true
  | .clen | .decOff | .decRuns | .decLen => true
  | .gammaLo | .gammaHi | .cxLo | .cxHi | .cyLo | .cyHi | .rinLo | .rinHi | .routLo | .routHi => true

/-- The registers whose writes are performed also while a command is pending (R111). -/
def regWritableBusy : Reg → Bool
  | .ctrl | .status | .cmd => true
  | .id | .paramSL | .paramWH | .paramNR | .paramCbuf | .paramLtab | .errCode | .errCmd => false
  | .imgW | .imgH | .cfgS | .cfgL | .sampleRad | .chMax | .ftN | .filtStart | .filtEnd | .filtMode => false
  | .clen | .lcnt | .decOff | .decRuns | .decLen | .decEnd => false
  | .gammaLo | .gammaHi | .cxLo | .cxHi | .cyLo | .cyHi | .rinLo | .rinHi | .routLo | .routHi => false
  | .gridS | .gridL | .coefNRad | .coefNAng | .invLen | .convCount => false

/-- Whether a host write to a target is legal (R93's access column, R95). -/
def targetWritable : Target → Bool
  | .reg r => regWritable r
  | .cbuf _ => true
  | .img _ _ => true
  | .full _ _ => true
  | .conv _ | .ltab _ _ | .dbuf _ | .ring _ _ | .new _ _ | .inv _ _ | .wide _ _ _ | .coef _ _ _ _ _ _ | .proj _ _ _ _ => false

/-- R138's window helpers, as functions to offsets. -/
def imgOffset (x y : Nat) : Nat := 0x2000000 + 4 * (2048 * y + x)
/-- FULL(s,l) (R138) -/
def fullOffset (s l : Nat) : Nat := 0x3000000 + 4 * (256 * s + l)
/-- RING(l,s) (R138) -/
def ringOffset (l s : Nat) : Nat := 0x3400000 + 4 * (4096 * l + s)
/-- NEW(s,l) (R138) -/
def newOffset (s l : Nat) : Nat := 0x3800000 + 4 * (256 * s + l)
/-- INVW(s,l) (R138) -/
def invOffset (s l : Nat) : Nat := 0x3C00000 + 4 * (256 * s + l)
/-- WIDE(s,l,c) (R138) -/
def wideOffset (s l : Nat) (c : Channel) : Nat := 0x4000000 + 16 * (256 * s + l) + 4 * channelIndex c
/-- COEFR(n,k,c,m,h) and COEFA(n,k,c,m,h) (R138) -/
def coefOffset (ax : Axis) (n k : Nat) (c : Channel) (im high : Bool) : Nat :=
  (match ax with | .rad => 0x8000000 | .ang => 0xC000000) + 64 * (coefStride ax * n + k) + 16 * channelIndex c
    + 8 * im.toNat + 4 * high.toNat
/-- The offset of a projection (R93, R106). -/
def projOffset (ax : Axis) (im : Bool) (n k : Nat) : Nat :=
  0x10000000 + (match ax with | .rad => 0 | .ang => 0x800000) + 0x400000 * im.toNat + 4 * (coefStride ax * n + k)
/-- CBUFW(q) (R138) -/
def cbufOffset (q : Nat) : Nat := 0x1000000 + 4 * q
/-- LTABW(e,w) (R138) -/
def ltabOffset (e w : Nat) : Nat := 0x10000 + 16 * e + 4 * w
/-- DBUFW(p) (R138) -/
def dbufOffset (p : Nat) : Nat := 0x20000 + 4 * p
/-- CONVW(k) (R138) -/
def convOffset (k : Nat) : Nat := 0x1000 + 4 * k

/-- The offset of a target: R93's table read from names to offsets. -/
def targetOffset : Target → Nat
  | .reg r => regOffset r
  | .conv k => convOffset k
  | .ltab e w => ltabOffset e w
  | .dbuf p => dbufOffset p
  | .cbuf q => cbufOffset q
  | .img y x => imgOffset x y
  | .full s l => fullOffset s l
  | .ring l s => ringOffset l s
  | .new s l => newOffset s l
  | .inv s l => invOffset s l
  | .wide s l c => wideOffset s l c
  | .coef ax n k c im high => coefOffset ax n k c im high
  | .proj ax im n k => projOffset ax im n k

/-- The targets R93 maps: the bounds of its table. -/
def targetExists : Target → Bool
  | .reg _ => true
  | .conv k => decide (k < (Config.sMax + 31) / 32)
  | .ltab e w => decide (e < Config.ltabMax) && decide (w < 4)
  | .dbuf p => decide (p < 256)
  | .cbuf q => decide (4 * q + 3 < Config.cbufBytes)
  | .img y x => decide (x < Config.wMax) && decide (y < Config.hMax)
  | .full s l => cellInBounds s l
  | .ring l s => cellInBounds s l
  | .new s l => cellInBounds s l
  | .inv s l => cellInBounds s l
  | .wide s l _ => cellInBounds s l
  | .coef ax n k _ _ _ => coefInBounds ax n k
  | .proj ax _ n k => coefInBounds ax n k

end Sys2Proof.Machine
end

