-- ==== Sys2Proof/Machine/Port.lean ====
section
/-! DEFINITION. Host transactions: what reads return and what writes do (10_state.md, 20_memory.md R90 to R113). -/

namespace Sys2Proof.Machine

/-- A color as a window word: {0x00, c}. -/
def colorWord (c : Color) : Word := c.setWidth 32

/-- Two 16-bit fields as a word, `hi` in bits 31..16. -/
def halves (hi lo : BitVec 16) : Word := hi ++ lo

/-- ID (R34). -/
def idWord : Word := 0x50475331

/-- The word a read of a register returns (R34 to R71); reserved bits read as 0 (R96). -/
def regRead (s : State) : Reg → Word
  | .id => idWord
  | .paramSL => halves (BitVec.ofNat 16 Config.lMax) (BitVec.ofNat 16 Config.sMax)
  | .paramWH => halves (BitVec.ofNat 16 Config.hMax) (BitVec.ofNat 16 Config.wMax)
  | .paramNR => halves (BitVec.ofNat 16 Config.radMax) (BitVec.ofNat 16 Config.nMax)
  | .paramCbuf => BitVec.ofNat 32 Config.cbufBytes
  | .paramLtab => halves 0 (BitVec.ofNat 16 Config.ltabMax)
  | .ctrl => ctrlWord s.regs.ctrl
  | .status => statusWord s.regs.status
  | .errCode => s.regs.errCode.setWidth 32
  | .cmd => s.regs.lastCmd
  | .errCmd => s.regs.errCmd
  | .imgW => halves 0 s.regs.imgW
  | .imgH => halves 0 s.regs.imgH
  | .cfgS => halves 0 s.regs.cfgS
  | .cfgL => halves 0 s.regs.cfgL
  | .sampleRad => s.regs.sampleRad.setWidth 32
  | .chMax => ((0 : BitVec 8) ++ s.regs.bMax ++ s.regs.gMax ++ s.regs.rMax : Word)
  | .ftN => halves 0 s.regs.ftN
  | .filtStart => halves 0 s.regs.filtStart
  | .filtEnd => halves 0 s.regs.filtEnd
  | .filtMode => bitAt s.regs.filtInclusive 0
  | .clen => s.regs.clen
  | .lcnt => halves 0 s.regs.lcnt
  | .decOff => s.regs.decOff
  | .decRuns => halves 0 s.regs.decRuns
  | .decLen => halves 0 s.regs.decLen
  | .decEnd => s.regs.decEnd
  | .gammaLo => s.regs.gamma.extractLsb' 0 32
  | .gammaHi => s.regs.gamma.extractLsb' 32 32
  | .cxLo => s.regs.cx.extractLsb' 0 32
  | .cxHi => s.regs.cx.extractLsb' 32 32
  | .cyLo => s.regs.cy.extractLsb' 0 32
  | .cyHi => s.regs.cy.extractLsb' 32 32
  | .rinLo => s.regs.rin.extractLsb' 0 32
  | .rinHi => s.regs.rin.extractLsb' 32 32
  | .routLo => s.regs.rout.extractLsb' 0 32
  | .routHi => s.regs.rout.extractLsb' 32 32
  | .gridS => halves 0 s.regs.gridS
  | .gridL => halves 0 s.regs.gridL
  | .coefNRad => halves 0 s.regs.coefNRad
  | .coefNAng => halves 0 s.regs.coefNAng
  | .invLen => halves 0 s.regs.invLen
  | .convCount => halves 0 s.regs.convCount

/-- Word k of the CONV bitmap (R102): bit b is CONV[32k + b], 0 from S_MAX on. -/
def convBitmap (s : State) (k : Nat) : Word :=
  (List.range 32).foldl
    (fun w b => w ||| bitAt (decide (32 * k + b < Config.sMax) && readConv s (32 * k + b)) b) 0

/-- A word of NEW (R101): a color is marked by bit 24. -/
def newWord (v : Option Color) : Word :=
  match v with
  | some c => 0x01000000 ||| colorWord c
  | none => 0

/-- The re or the im part of a coefficient. -/
def coefPart (im : Bool) (c : Coef) : F64 := if im then c.im else c.re

/-- A projection (R106, R198): each channel truncated and taken modulo 256. -/
def projection (s : State) (ax : Axis) (im : Bool) (n k : Nat) : Color :=
  pack (low8 (F64.trunc (coefPart im (readCoef s ax n k .red))))
    (low8 (F64.trunc (coefPart im (readCoef s ax n k .green))))
    (low8 (F64.trunc (coefPart im (readCoef s ax n k .blue))))

/-- The word a read of a target returns (R98 to R109). -/
def targetRead (s : State) : Target → Word
  | .reg r => regRead s r
  | .conv k => convBitmap s k
  | .ltab e w => ltabWord (readLtab s e) w
  | .dbuf p => colorWord (readDbuf s p)
  | .cbuf q => readCbuf s (4 * q + 3) ++ readCbuf s (4 * q + 2) ++ readCbuf s (4 * q + 1) ++ readCbuf s (4 * q)
  | .img y x => colorWord (readImg s y x)
  | .full sec l => colorWord (readFull s sec l)
  | .ring l sec => colorWord (readFull s sec l)
  | .new sec l => newWord (readNew s sec l)
  | .inv sec l => colorWord (readInv s sec l)
  | .wide sec l c => readWide s sec l c
  | .coef ax n k c im high =>
    (coefPart im (readCoef s ax n k c)).extractLsb' (if high then 32 else 0) 32
  | .proj ax im n k => colorWord (projection s ax im n k)

/-- The low half of an F64 register replaced (R97). -/
def setLow (x : F64) (v : Word) : F64 := x.extractLsb' 32 32 ++ v

/-- The high half of an F64 register replaced (R97). -/
def setHigh (x : F64) (v : Word) : F64 := v ++ x.extractLsb' 0 32

/-- The low 16 bits of a written word: a 16-bit field stores only these (R96). -/
def low16 (v : Word) : BitVec 16 := v.setWidth 16

/-- A host write to CTRL (R40, R290): a soft reset, or the enables. -/
def writeCtrl (v : Word) (s : State) : State :=
  if v.getLsbD 3 then softReset s
  else mapRegs (fun r => { r with
    ctrl := { ieDone := v.getLsbD 0, ieErr := v.getLsbD 1, ieBus := v.getLsbD 2 } }) s

/-- A host write to CMD (R250, R251). -/
def writeCmd (v : Word) (s : State) : State :=
  if s.regs.status.busy then raiseFor v .busyReject s else accept v s

/-- The value CLEN takes when v is written (R55): min(v, CBUF_BYTES). -/
def legalClen (v : Word) : Word := BitVec.ofNat 32 (min v.toNat Config.cbufBytes)

/-- The configuration registers after a legal write of v (R45 to R65, R96, R97); the other registers do not change. -/
def cfgWrite (v : Word) : Reg → Regs → Regs
  | .imgW, r => { r with imgW := low16 v }
  | .imgH, r => { r with imgH := low16 v }
  | .cfgS, r => { r with cfgS := low16 v }
  | .cfgL, r => { r with cfgL := low16 v }
  | .sampleRad, r => { r with sampleRad := v.extractLsb' 0 8 }
  | .chMax, r => { r with rMax := v.extractLsb' 0 8, gMax := v.extractLsb' 8 8, bMax := v.extractLsb' 16 8 }
  | .ftN, r => { r with ftN := low16 v }
  | .filtStart, r => { r with filtStart := low16 v }
  | .filtEnd, r => { r with filtEnd := low16 v }
  | .filtMode, r => { r with filtInclusive := v.getLsbD 0 }
  | .clen, r => { r with clen := legalClen v }
  | .decOff, r => { r with decOff := v }
  | .decRuns, r => { r with decRuns := low16 v }
  | .decLen, r => { r with decLen := low16 v }
  | .gammaLo, r => { r with gamma := setLow r.gamma v }
  | .gammaHi, r => { r with gamma := setHigh r.gamma v }
  | .cxLo, r => { r with cx := setLow r.cx v }
  | .cxHi, r => { r with cx := setHigh r.cx v }
  | .cyLo, r => { r with cy := setLow r.cy v }
  | .cyHi, r => { r with cy := setHigh r.cy v }
  | .rinLo, r => { r with rin := setLow r.rin v }
  | .rinHi, r => { r with rin := setHigh r.rin v }
  | .routLo, r => { r with rout := setLow r.rout v }
  | .routHi, r => { r with rout := setHigh r.rout v }
  | .id, r | .paramSL, r | .paramWH, r | .paramNR, r | .paramCbuf, r | .paramLtab, r => r
  | .ctrl, r | .status, r | .errCode, r | .cmd, r | .errCmd, r | .lcnt, r | .decEnd, r => r
  | .gridS, r | .gridL, r | .coefNRad, r | .coefNAng, r | .invLen, r | .convCount, r => r

/-- A legal host write of v to a register that is performed (R113). -/
def regWrite (v : Word) (r : Reg) (s : State) : State :=
  match r with
  | .ctrl => writeCtrl v s
  | .status => acknowledge v s
  | .cmd => writeCmd v s
  | _ => mapRegs (cfgWrite v r) s

/-- The four bytes a CBUF word write sets, lane [7:0] first (R107). -/
def cbufLanes (q : Nat) (v : Word) : List Host.Cell :=
  [ (4 * q, v.extractLsb' 0 8), (4 * q + 1, v.extractLsb' 8 8), (4 * q + 2, v.extractLsb' 16 8),
    (4 * q + 3, v.extractLsb' 24 8) ]

/-- A legal host write of v that is performed (R98, R99, R107, R113); the read-only windows never come here. -/
def targetWrite (v : Word) (t : Target) (s : State) : State :=
  match t with
  | .reg r => regWrite v r s
  | .cbuf q => writeCbuf (cbufLanes q v) s
  | .img y x => writeImg [(imgCell y x, v.extractLsb' 0 24)] s
  | .full sec l => writeFull [(gridCell sec l, v.extractLsb' 0 24)] s
  | .conv _ | .ltab _ _ | .dbuf _ | .ring _ _ | .new _ _ | .inv _ _ | .wide _ _ _ | .coef _ _ _ _ _ _ | .proj _ _ _ _ => s

/-- Whether a pending command keeps a read of a target from being performed (R110, R111). -/
def readRefusedBusy : Target → Bool
  | .reg _ => false
  | .conv _ | .ltab _ _ | .dbuf _ | .cbuf _ | .img _ _ | .full _ _ | .ring _ _ | .new _ _ | .inv _ _ | .wide _ _ _
  | .coef _ _ _ _ _ _ | .proj _ _ _ _ => true

/-- Whether a pending command keeps a legal write to a target from being performed (R110, R111). -/
def writeRefusedBusy : Target → Bool
  | .reg r => !regWritableBusy r
  | .conv _ | .ltab _ _ | .dbuf _ | .cbuf _ | .img _ _ | .full _ _ | .ring _ _ | .new _ _ | .inv _ _ | .wide _ _ _
  | .coef _ _ _ _ _ _ | .proj _ _ _ _ => true

/-- HostRead(off, size): the value returned and the state after (R91, R110 to R112). -/
def hostRead (off size : Nat) (s : State) : Word × State :=
  match targetOf off size with
  | none => (0, setBusErr s)
  | some t => if s.regs.status.busy && readRefusedBusy t then (0, setHaz s) else (targetRead s t, s)

/-- HostWrite(off, size, v) (R91, R95, R110, R111, R113). -/
def hostWrite (off size : Nat) (v : Word) (s : State) : State :=
  match targetOf off size with
  | none => setBusErr s
  | some t =>
    if !targetWritable t then setBusErr s
    else if s.regs.status.busy && writeRefusedBusy t then setHaz s
    else targetWrite v t s

/-- One host transaction as a step (R90, R116); the value a read returns is kept in `replies`. -/
def hostStep (t : Transaction) (s : State) : State :=
  match t with
  | .read off size => { (hostRead off size s).2 with replies := (hostRead off size s).1 :: s.replies }
  | .write off size v => hostWrite off size v s

end Sys2Proof.Machine
end

