-- ==== Sys2Proof/Machine/Engine.lean ====
section
/-! DEFINITION. The Engine's step, and the order of steps (43_control.md R252, R253; 20_memory.md R116;
70_reset_and_hazards.md R290, R303). -/

namespace Sys2Proof.Machine

/-- exec(PEND) (R253): decode the pending word and perform the command's rule; an illegal word raises ILLEGAL_CMD. -/
def performPending (s : State) : Host.Outcome State Fault Refusal :=
  match decode s.regs.pend with
  | .ok i => exec i s
  | .error _ => .next (raise .illegalCmd s)

/-- What R252 adds after exec(PEND): BUSY <- 0, DONE <- 1. -/
def completed (o : Host.Outcome State Fault Refusal) : Host.Outcome State Fault Refusal :=
  match o with
  | .next s => .next (complete s)
  | .fault r => .fault r
  | .refused r => .refused r

/-- A place for an Engine step: the whole pending command in one step (R252), nothing when none is pending (R116). -/
def engineStep (s : State) : Host.Outcome State Fault Refusal :=
  if s.regs.status.busy then completed (performPending s) else .next s

/-- One input, taken (R116, R290). -/
def inputStep (i : Input) (s : State) : Host.Outcome State Fault Refusal :=
  match i with
  | .host t => .next (hostStep t s)
  | .engine => engineStep s
  | .hardReset => .next (hardReset s)

/-- The next step of the total order (R116): the next input of the outside world's choice; when there is none, the
Engine's (R303), so that every accepted command is performed. With neither, the block is idle (R293). -/
def nextStep (s : State) : Host.Outcome State Fault Refusal :=
  match s.inputs with
  | [] => engineStep s
  | i :: rest => inputStep i { s with inputs := rest }

/-- A command word placed where the Engine takes its next command: accepted as by a CMD write (R250), with the Engine's
step placed next. -/
def placeCommand (w : Word) (s : State) : State :=
  { accept w s with inputs := .engine :: s.inputs }

end Sys2Proof.Machine
end

