-- ==== Sys2Proof/Machine/Step.lean ====
section
/-! DEFINITION. The step of the block, and the placing of a command word. -/

namespace Sys2Proof.Machine

/-- One step of the block (20_memory.md R116). -/
def step (s : State) : Host.Outcome State Fault Refusal := nextStep s

/-- s with a command word accepted and its Engine step next (43_control.md R250, R252). -/
def State.withFetchWord (s : State) (nbits w : Nat) : State := placeCommand (tableWord nbits w) s

end Sys2Proof.Machine
end

