-- ==== Sys2Proof/Machine/Assembler.lean ====
section
/-! DEFINITION. The assembler syntax of commands (30_encoding.md R136): text to command and command to text. -/

namespace Sys2Proof.Machine

/-- The parts of a text between dots. -/
def splitDots : List Char → List (List Char)
  | [] => [[]]
  | c :: l =>
    if c = '.' then [] :: splitDots l
    else match splitDots l with
      | [] => [[c]]
      | p :: ps => (c :: p) :: ps

/-- The text before the first space, and the text after it when there is one. -/
def splitSpace : List Char → List Char × Option (List Char)
  | [] => ([], none)
  | c :: l => if c = ' ' then ([], some l) else (c :: (splitSpace l).1, (splitSpace l).2)

/-- <ax> (R136). -/
def asmAxis (p : String) : Option Axis :=
  if p = "rad" then some .rad else if p = "ang" then some .ang else none

/-- <bs> (R136). -/
def asmBasis (p : String) : Option Basis :=
  if p = "dft" then some .fourier else if p = "dct" then some .cosine else none

/-- <sr> (R136). -/
def asmSource (p : String) : Option Source :=
  if p = "full" then some .full else if p = "inv" then some .inv else none

/-- A decimal number on top of v; none at any other character. -/
def asmDigits : Nat → List Char → Option Nat
  | v, [] => some v
  | v, c :: l => if c.isDigit then asmDigits (10 * v + (c.toNat - '0'.toNat)) l else none

/-- <idx> (R136): a decimal number of 0..4095. -/
def asmIdx (l : List Char) : Option Nat :=
  if l.isEmpty then none
  else match asmDigits 0 l with
    | some n => if idxFits n then some n else none
    | none => none

/-- The commands without an index, from their parts (R136). -/
def asmPlain (parts : List String) : Option Instr :=
  match parts with
  | [m] =>
    if m = "nop" then some .nop
    else if m = "sample" then some .sample
    else if m = "hdec" then some .hdec
    else if m = "cbufclear" then some .cbufClear
    else if m = "gridload" then some .gridLoad
    else none
  | [m, a] =>
    match asmAxis a with
    | some ax => if m = "inv" then some (.inv ax) else none
    | none => none
  | [m, a, b] =>
    match asmAxis a, asmBasis b, asmSource b with
    | some ax, some bs, _ => if m = "fwd" then some (.fwd ax bs) else none
    | some ax, none, some sr => if m = "hencall" then some (.hencAll ax sr) else none
    | _, _, _ => none
  | _ => none

/-- henc.<ax>.<sr> <idx> (R136). -/
def asmIndexed (parts : List String) (idx : List Char) : Option Instr :=
  match parts with
  | [m, a, b] =>
    match asmAxis a, asmSource b, asmIdx idx with
    | some ax, some sr, some n => if m = "henc" then some (.hencLine ax sr n) else none
    | _, _, _ => none
  | _ => none

/-- The command a line of text stands for, upper and lower case alike; none for any other spelling (R136). -/
def assembleChars (text : List Char) : Option Instr :=
  let l := text.map Char.toLower
  let parts := (splitDots (splitSpace l).1).map String.ofList
  match (splitSpace l).2 with
  | none => asmPlain parts
  | some idx => asmIndexed parts idx

/-- The word a line of text assembles to (R136). -/
def assemble (text : String) : Option Word := (assembleChars text.toList).map encode

/-- The name of an axis. -/
def axisName : Axis → String
  | .rad => "rad"
  | .ang => "ang"

/-- The name of a basis. -/
def basisName : Basis → String
  | .fourier => "dft"
  | .cosine => "dct"

/-- The name of a source grid. -/
def sourceName : Source → String
  | .full => "full"
  | .inv => "inv"

/-- The text of a command (R136). -/
def disassemble : Instr → String
  | .nop => "nop"
  | .sample => "sample"
  | .fwd ax bs => "fwd." ++ axisName ax ++ "." ++ basisName bs
  | .inv ax => "inv." ++ axisName ax
  | .hencLine ax sr idx => "henc." ++ axisName ax ++ "." ++ sourceName sr ++ " " ++ toString idx
  | .hencAll ax sr => "hencall." ++ axisName ax ++ "." ++ sourceName sr
  | .hdec => "hdec"
  | .cbufClear => "cbufclear"
  | .gridLoad => "gridload"

end Sys2Proof.Machine
end

