-- ==== Sys2Proof/Machine/HostProgram.lean ====
section
/-! DEFINITION. Host programs: the host operations and pseudo-instructions of 30_encoding.md R137 to R142 as the inputs
they give the block, and accesses by address (00_scope.md R20). -/

namespace Sys2Proof.Machine

/-- The F64 registers of R61 to R65, by name. -/
inductive F64Reg where
  | gamma | cx | cy | rin | rout
  deriving DecidableEq, Repr

/-- `<reg>_LO` (R137). -/
def f64RegLo : F64Reg → Reg
  | .gamma => .gammaLo
  | .cx => .cxLo
  | .cy => .cyLo
  | .rin => .rinLo
  | .rout => .routLo

/-- `<reg>_HI` (R137). -/
def f64RegHi : F64Reg → Reg
  | .gamma => .gammaHi
  | .cx => .cxHi
  | .cy => .cyHi
  | .rin => .rinHi
  | .rout => .routHi

/-- wr <off>, v (R137). -/
def wrOff (off : Nat) (v : Word) : List Input := [.host (.write off 4 v)]

/-- rd <off> (R137). -/
def rdOff (off : Nat) : List Input := [.host (.read off 4)]

/-- wr <reg>, v (R137). -/
def wrReg (r : Reg) (v : Word) : List Input := wrOff (regOffset r) v

/-- rd <reg> (R137). -/
def rdReg (r : Reg) : List Input := rdOff (regOffset r)

/-- The value of an F64 register. -/
def f64Value : F64Reg → Regs → F64
  | .gamma, r => r.gamma
  | .cx, r => r.cx
  | .cy, r => r.cy
  | .rin, r => r.rin
  | .rout, r => r.rout

/-- The registers with an F64 register replaced. -/
def setF64 (x : F64) : F64Reg → Regs → Regs
  | .gamma, r => { r with gamma := x }
  | .cx, r => { r with cx := x }
  | .cy, r => { r with cy := x }
  | .rin, r => { r with rin := x }
  | .rout, r => { r with rout := x }

/-- wr64 <reg>, v (R137): the low word, then the high word. -/
def wr64 (r : F64Reg) (v : F64) : List Input :=
  wrReg (f64RegLo r) (v.extractLsb' 0 32) ++ wrReg (f64RegHi r) (v.extractLsb' 32 32)

/-- issue <command> (R140). -/
def issueCommand (i : Instr) : List Input := wrReg .cmd (encode i)

/-- `polls` reads of STATUS one after another. -/
def pollStatus : Nat → List Input
  | 0 => []
  | k + 1 => rdReg .status ++ pollStatus k

/-- wait (R141), when the Engine's step comes after `polls` reads of STATUS: those reads see BUSY = 1, and the loop
ends at the read after the step. With no command pending and `polls` = 0 it is one read. -/
def waitDone (polls : Nat) : List Input := pollStatus polls ++ (.engine :: rdReg .status)

/-- run <command> (R139). -/
def runCommand (i : Instr) (polls : Nat) : List Input := issueCommand i ++ waitDone polls

/-- clrstat (R142). -/
def clrstat : List Input := wrReg .status 0x0000003E

/-- MemRead(addr, n) (R20): the host transaction at addr = BLOCK_BASE + off; none below the block. -/
def memRead (addr n : Nat) : Option Transaction :=
  if Config.blockBase ≤ addr then some (.read (addr - Config.blockBase) n) else none

/-- MemWrite(addr, n, v) (R20). -/
def memWrite (addr n : Nat) (v : Word) : Option Transaction :=
  if Config.blockBase ≤ addr then some (.write (addr - Config.blockBase) n v) else none

end Sys2Proof.Machine
end

