-- ==== Sys2Proof/Safety.lean ====
section
/-! DEFINITION. The terms the claims about PGS use: the number an F64 stands for and what correct rounding is, what it
means that a memory or the port's record is left alone, when commands are ready to run, and the invariant of the block. -/

namespace Sys2Proof

/-- The rational number a finite F64 stands for. -/
def F64.toRat (x : F64) : ℚ := (F64.smant x : ℚ) * (2 : ℚ) ^ (F64.expo x)

/-- r is the F64 that rounding q to nearest, ties to even, gives (00_scope.md R17): the infinity of q's sign from
2^1024 - 2^970 on; below, a finite number no other is nearer than, with an even significand when another is as near.
(The sign of a zero is not told by the number.) -/
def F64.NearestEven (q : ℚ) (r : F64) : Prop :=
  if (2 : ℚ) ^ (1024 : ℕ) - (2 : ℚ) ^ (970 : ℕ) ≤ |q| then r = F64.inf (decide (q < 0))
  else F64.isFinite r = true ∧ ∀ y : F64, F64.isFinite y = true →
    |F64.toRat r - q| < |F64.toRat y - q| ∨
    (|F64.toRat r - q| = |F64.toRat y - q| ∧ (F64.toRat y = F64.toRat r ∨ F64.fracField r % 2 = 0))

end Sys2Proof

namespace Sys2Proof.Machine

/-- Every cell of a memory reads in t as it reads in s. -/
def keepsMem (s t : State) : MemName → Prop
  | .img => ∀ y x, readImg t y x = readImg s y x
  | .new => ∀ sec l, readNew t sec l = readNew s sec l
  | .conv => ∀ sec, readConv t sec = readConv s sec
  | .full => ∀ sec l, readFull t sec l = readFull s sec l
  | .coefRad => ∀ n k c, readCoef t .rad n k c = readCoef s .rad n k c
  | .coefAng => ∀ n k c, readCoef t .ang n k c = readCoef s .ang n k c
  | .wide => ∀ sec l c, readWide t sec l c = readWide s sec l c
  | .inv => ∀ sec l, readInv t sec l = readInv s sec l
  | .cbuf => ∀ q, readCbuf t q = readCbuf s q
  | .ltab => ∀ e, readLtab t e = readLtab s e
  | .dbuf => ∀ p, readDbuf t p = readDbuf s p

/-- Every cell of each of the memories named reads in t as in s. -/
def KeepsMems (ms : List MemName) (s t : State) : Prop := ∀ m ∈ ms, keepsMem s t m

/-- All the memories. -/
def allMems : List MemName := [.img, .new, .conv, .full, .coefRad, .coefAng, .wide, .inv, .cbuf, .ltab, .dbuf]

/-- The model's own fields are left alone. -/
def KeepsPort (s t : State) : Prop := t.inputs = s.inputs ∧ t.replies = s.replies ∧ t.resets = s.resets

/-- It is the Engine's turn in s, and s0 is s with that turn taken off the inputs (20_memory.md R116, 70 R303). -/
def EngineTurn (s s0 : State) : Prop :=
  (s.inputs = [] ∧ s0 = s) ∨ ∃ rest, s.inputs = .engine :: rest ∧ s0 = { s with inputs := rest }

/-- CFG_S and CFG_L are legal (40_sampler.md R151, R170). -/
def ShapeReady (s : State) : Prop :=
  1 ≤ s.regs.cfgS.toNat ∧ s.regs.cfgS.toNat ≤ Config.sMax ∧ 1 ≤ s.regs.cfgL.toNat ∧ s.regs.cfgL.toNat ≤ Config.lMax

/-- The configuration SAMPLE accepts (40_sampler.md R151). -/
def SampleReady (s : State) : Prop :=
  (1 ≤ s.regs.imgW.toNat ∧ s.regs.imgW.toNat ≤ Config.wMax) ∧
  (1 ≤ s.regs.imgH.toNat ∧ s.regs.imgH.toNat ≤ Config.hMax) ∧
  ShapeReady s ∧
  s.regs.sampleRad.toNat ≤ Config.radMax ∧
  F64.posFinite s.regs.gamma = true ∧
  F64.isFinite s.regs.cx = true ∧ F64.isFinite s.regs.cy = true ∧
  F64.isFinite s.regs.rin = true ∧ F64.isFinite s.regs.rout = true

/-- The latched shape is one a grid can have (10_state.md R66, R67): an invariant of the block. -/
def ShapeInBounds (s : State) : Prop := s.regs.gridS.toNat ≤ Config.sMax ∧ s.regs.gridL.toNat ≤ Config.lMax

/-- The source grid of a codec command is valid (42_codec.md R220). -/
def SourceValid (sr : Source) (s : State) : Prop :=
  match sr with
  | .full => s.regs.status.gridValid = true
  | .inv => s.regs.status.invValid = true

/-- HDEC's operands are legal (42_codec.md R230). -/
def HdecReady (s : State) : Prop :=
  1 ≤ s.regs.decLen.toNat ∧ s.regs.decLen.toNat ≤ 256 ∧ 1 ≤ s.regs.decRuns.toNat ∧
  s.regs.decRuns.toNat ≤ s.regs.decLen.toNat

/-- The length of the buffer of line n (42_codec.md R219). -/
def lineBytes (s : State) (sr : Source) (ax : Axis) (n : Nat) : Nat := (encodeLine (codecLine s sr ax n)).bytes.length

/-- Where line n starts in a stream of all lines written from offset 0 on (42_codec.md R223). -/
def lineStart (s : State) (sr : Source) (ax : Axis) : Nat → Nat
  | 0 => 0
  | n + 1 => lineStart s sr ax n + lineBytes s sr ax n

/-- What the registers always satisfy. -/
structure RegsInv (r : Regs) : Prop where
  /-- The latched shape is within S_MAX, L_MAX (R66, R67). -/
  shape : r.gridS.toNat ≤ Config.sMax ∧ r.gridL.toNat ≤ Config.lMax
  /-- A valid grid has a sector and a light (R151, R170). -/
  grid : r.status.gridValid = true → 1 ≤ r.gridS.toNat ∧ 1 ≤ r.gridL.toNat
  /-- Nothing derived is valid without a grid (R165, R182, R191). -/
  derived : (r.status.coefValidRad || r.status.coefValidAng || r.status.invValid) = true → r.status.gridValid = true
  /-- Valid RAD coefficients have a legal block size (R182). -/
  coefRad : r.status.coefValidRad = true → 1 ≤ r.coefNRad.toNat ∧ r.coefNRad.toNat ≤ Config.nMax
  /-- Valid ANG coefficients have a legal block size (R182). -/
  coefAng : r.status.coefValidAng = true → 1 ≤ r.coefNAng.toNat ∧ r.coefNAng.toNat ≤ Config.nMax
  /-- The stream is inside CBUF and LTAB (R55, R56, R221). -/
  stream : r.clen.toNat ≤ Config.cbufBytes ∧ r.lcnt.toNat ≤ Config.ltabMax
  /-- A pending command is not done, and it is the last one accepted (R250, R251, R252). -/
  handshake : r.status.busy = true → r.status.done = false ∧ r.lastCmd = r.pend
  /-- ERRCODE is 1 to 13 when ERR is set and 0 otherwise (R42, section 2 of 60_exceptions.md). -/
  errCode : r.errCode.toNat ≤ 13 ∧ (r.status.err = true ↔ r.errCode ≠ 0)
  /-- ERRCMD is 0 when ERR is clear (R44). -/
  errCmd : r.status.err = false → r.errCmd = 0
  /-- No more sectors are converted than the grid has (R71). -/
  converted : r.convCount.toNat ≤ r.gridS.toNat
  /-- DEC_END is an offset of CBUF, or its end (R60, R231). -/
  decEnd : r.decEnd.toNat ≤ Config.cbufBytes

/-- Every written cell of a memory has an index that satisfies p. -/
def cellsIn {α : Type} (m : Memory α) (p : Nat → Bool) : Bool := m.all fun c => p c.1

/-- What the memories always satisfy: the canonical form, and no written cell outside the memory (R72 to R81, R122). -/
structure MemsInv (m : Mems) : Prop where
  img : Memory.wf m.img = true ∧
    cellsIn m.img (fun i => decide (i % 2048 < Config.wMax) && decide (i / 2048 < Config.hMax)) = true
  new : Memory.wf m.new = true ∧ cellsIn m.new (fun i => cellInBounds (i / 256) (i % 256)) = true
  conv : Memory.wf m.conv = true ∧ cellsIn m.conv (fun i => decide (i < Config.sMax)) = true
  full : Memory.wf m.full = true ∧ cellsIn m.full (fun i => cellInBounds (i / 256) (i % 256)) = true
  coefRad : Memory.wf m.coefRad = true ∧
    cellsIn m.coefRad (fun i => decide (i % 4 < 3) && coefInBounds .rad (i / 4 / 256) (i / 4 % 256)) = true
  coefAng : Memory.wf m.coefAng = true ∧
    cellsIn m.coefAng (fun i => decide (i % 4 < 3) && coefInBounds .ang (i / 4 / 4096) (i / 4 % 4096)) = true
  wide : Memory.wf m.wide = true ∧
    cellsIn m.wide (fun i => decide (i % 4 < 3) && cellInBounds (i / 4 / 256) (i / 4 % 256)) = true
  inv : Memory.wf m.inv = true ∧ cellsIn m.inv (fun i => cellInBounds (i / 256) (i % 256)) = true
  cbuf : Memory.wf m.cbuf = true ∧ cellsIn m.cbuf (fun i => decide (i < Config.cbufBytes)) = true
  ltab : Memory.wf m.ltab = true ∧ cellsIn m.ltab (fun i => decide (i < Config.ltabMax)) = true
  dbuf : Memory.wf m.dbuf = true ∧ cellsIn m.dbuf (fun i => decide (i < 256)) = true

/-- The invariant of the block. -/
def Inv (s : State) : Prop := RegsInv s.regs ∧ MemsInv s.mems

/-- The configuration registers a host write stores into as it stands, each with the bits its fields cover (10_state.md R45
to R54, R57 to R59, R61 to R65); CLEN is the one other, legalised (R55). -/
def configFields : List (Reg × Word) :=
  [ (.imgW, 0xFFFF), (.imgH, 0xFFFF), (.cfgS, 0xFFFF), (.cfgL, 0xFFFF), (.sampleRad, 0xFF), (.chMax, 0xFFFFFF),
    (.ftN, 0xFFFF), (.filtStart, 0xFFFF), (.filtEnd, 0xFFFF), (.filtMode, 1), (.decOff, 0xFFFFFFFF), (.decRuns, 0xFFFF),
    (.decLen, 0xFFFF), (.gammaLo, 0xFFFFFFFF), (.gammaHi, 0xFFFFFFFF), (.cxLo, 0xFFFFFFFF), (.cxHi, 0xFFFFFFFF),
    (.cyLo, 0xFFFFFFFF), (.cyHi, 0xFFFFFFFF), (.rinLo, 0xFFFFFFFF), (.rinHi, 0xFFFFFFFF), (.routLo, 0xFFFFFFFF),
    (.routHi, 0xFFFFFFFF) ]

/-- A run of k steps is safe when it stops at no fault and no refusal. -/
def SafeRun (k : Nat) (s : State) : Prop := ∃ t, Sys2Proof.core.run k s = .next t

/-- The failures the block reports (60_exceptions.md R289): ERR, BUSERR, HAZ or TRUNC8 is set. -/
def reportsFailure (s : State) : Bool :=
  s.regs.status.err || s.regs.status.busErr || s.regs.status.haz || s.regs.status.trunc8

end Sys2Proof.Machine
end

