-- ==== Sys2Proof/Certificates/Slice0/Obligations.lean ====
section
/-! DEFINITION. The statements about PGS for the provers. Each docstring names the rules of spec/ it formalises; where a
statement rests on a choice of the model, it says so and names the log entry. -/

open Sys2Proof Sys2Proof.Machine

/-! ### Command words -/

/-- Decoding the word of a well-formed command gives the command back, whatever its operands (30_encoding.md R134, R136). -/
def Obligations.DecodeOfEncode : Prop :=
  ∀ i : Instr, WellFormed i → decode (encode i) = .ok i

/-- A word that decodes is the word of a well-formed command: no bit of a legal word is dropped (R133, R134). -/
def Obligations.EncodeOfDecode : Prop :=
  ∀ (w : Word) (i : Instr), decode w = .ok i → WellFormed i ∧ encode i = w

/-- R133: a word is legal exactly when it has the match of one of the nine rows under that row's mask, and then it is
that row's command. -/
def Obligations.LegalWordsAreTheTable : Prop :=
  ∀ w : Word,
    (decode w = .ok .nop ↔ w &&& 0xFFFFFFFF = 0x00000000) ∧
    (decode w = .ok .sample ↔ w &&& 0xFFFFFFFF = 0x00000001) ∧
    ((∃ ax bs, decode w = .ok (.fwd ax bs)) ↔ w &&& 0xFFFFFFCF = 0x00000002) ∧
    ((∃ ax, decode w = .ok (.inv ax)) ↔ w &&& 0xFFFFFFEF = 0x00000003) ∧
    ((∃ ax sr idx, decode w = .ok (.hencLine ax sr idx)) ↔ w &&& 0xFFF000AF = 0x00000004) ∧
    ((∃ ax sr, decode w = .ok (.hencAll ax sr)) ↔ w &&& 0xFFFFFFAF = 0x00000005) ∧
    (decode w = .ok .hdec ↔ w &&& 0xFFFFFFFF = 0x00000006) ∧
    (decode w = .ok .cbufClear ↔ w &&& 0xFFFFFFFF = 0x00000007) ∧
    (decode w = .ok .gridLoad ↔ w &&& 0xFFFFFFFF = 0x00000008)

/-- Words written out from R130's fields decode to the commands they stand for (30_encoding.md R130 to R136). -/
def Obligations.WrittenWordsDecode : Prop :=
  decode 0x00000032 = .ok (.fwd .ang .cosine) ∧ decode 0x00000013 = .ok (.inv .ang) ∧
  decode 0x00000554 = .ok (.hencLine .ang .inv 5) ∧ decode 0x000FFF44 = .ok (.hencLine .rad .inv 4095) ∧
  decode 0x00000015 = .ok (.hencAll .ang .full) ∧ decode 0x00000008 = .ok .gridLoad ∧
  decode 0x00000010 = .error .unusedBits ∧ decode 0x00000084 = .error .unusedBits ∧
  decode 0x0000000F = .error .reservedOpcode

/-! ### Steps, issue and errors -/

/-- At the Engine's turn with a command pending, a step is exec of the decoded command, and then BUSY <- 0, DONE <- 1
(43_control.md R252, R253; that the Engine has its turn when no input is left is the model's fair schedule, log entry 2). -/
def Obligations.StepRunsDecodedCommand : Prop :=
  ∀ (s s0 t : State) (i : Instr), EngineTurn s s0 → s.regs.status.busy = true → decode s.regs.pend = .ok i →
    exec i s0 = .next t →
    step s = .next { t with regs := { t.regs with status := { t.regs.status with busy := false, done := true } } }

/-- Performing an illegal word raises ILLEGAL_CMD (code 1), with the word in ERRCMD, and changes nothing else but the
end of the Engine step (30_encoding.md R135, 43_control.md R252, 60_exceptions.md R260, R261; that the Engine has its
turn when no input is left is the model's fair schedule, log entry 2). -/
def Obligations.IllegalWordRaises : Prop :=
  ∀ s s0 : State, EngineTurn s s0 → s.regs.status.busy = true → (∀ i, decode s.regs.pend ≠ .ok i) →
    step s = .next { s0 with regs := { s0.regs with
      errCode := if s.regs.status.err then s.regs.errCode else 1
      errCmd := if s.regs.status.err then s.regs.errCmd else s.regs.pend
      status := { s0.regs.status with err := true, busy := false, done := true } } }

/-- No state stops the block: every step answers a next state (43_control.md R255: "An error never stops the Engine"). -/
def Obligations.EveryStepGoesOn : Prop := ∀ s : State, ∃ t, step s = .next t

/-- Every accepted command is performed, or discarded by a reset, after at most as many steps as there are inputs to
come, and one more (70_reset_and_hazards.md R303). That the Engine steps when no input is left is the model's choice of
a fair schedule (log entry 2). -/
def Obligations.PendingCommandEnds : Prop :=
  ∀ s : State, s.regs.status.busy = true →
    ∃ k t, k ≤ s.inputs.length + 1 ∧ Sys2Proof.core.run k s = .next t ∧ t.regs.status.busy = false

/-- R250: a CMD write while BUSY = 0 sets LASTCMD, PEND, BUSY and DONE and nothing else, whatever the word. -/
def Obligations.CmdWriteAccepted : Prop :=
  ∀ (s : State) (v : Word), s.regs.status.busy = false →
    hostWrite 0x02C 4 v s = { s with regs := { s.regs with
      lastCmd := v, pend := v, status := { s.regs.status with busy := true, done := false } } }

/-- A CMD write while BUSY = 1 raises BUSY_REJECT (code 2) with the rejected word and changes nothing else (43_control.md
R251, 60_exceptions.md R260, R262). -/
def Obligations.CmdWriteRejectedWhileBusy : Prop :=
  ∀ (s : State) (v : Word), s.regs.status.busy = true →
    hostWrite 0x02C 4 v s = { s with regs := { s.regs with
      errCode := if s.regs.status.err then s.regs.errCode else 2
      errCmd := if s.regs.status.err then s.regs.errCmd else v
      status := { s.regs.status with err := true } } }

/-- The thirteen errors have the codes 1 to 13; a raise records the first error and its word only, and the host's write
of 1 to ERR clears ERR, ERRCODE and ERRCMD (60_exceptions.md R260 to R273, R281). -/
def Obligations.FirstErrorIsKept : Prop :=
  ([ErrCode.illegalCmd, .busyReject, .badConfig, .notSampled, .noCoef, .noInv, .badIndex, .cbufOverflow, .ltabOverflow,
      .badOperand, .decTruncated, .decBadTree, .decBadStarts].map errCodeValue
    = [1, 2, 3, 4, 5, 6, 7, 8, 9, 10, 11, 12, 13]) ∧
  ∀ (e : ErrCode) (s : State),
    (s.regs.status.err = true → raise e s = s) ∧
    (s.regs.status.err = false → raise e s = { s with regs := { s.regs with
      errCode := errCodeValue e, errCmd := s.regs.pend, status := { s.regs.status with err := true } } }) ∧
    ∀ v : Word, v.getLsbD 2 = true →
      (hostWrite 0x024 4 v (raise e s)).regs.status.err = false ∧
      (hostWrite 0x024 4 v (raise e s)).regs.errCode = 0 ∧ (hostWrite 0x024 4 v (raise e s)).regs.errCmd = 0

/-- Every command but HENC_ALL either answers the start state with one error raised, or leaves ERR, ERRCODE and ERRCMD as
they were: from ERR = 0 an error changes these three and nothing else, and from ERR = 1 none of these commands changes them
(43_control.md R255, 60_exceptions.md R260, R274). That an error changes nothing at all from ERR = 1 is said where each is
raised: SampleAndTransformRefusals, EncodeRefusals, DecodeRefusals. -/
def Obligations.ErrorChangesNothingElse : Prop :=
  ∀ (i : Instr) (s t : State), (∀ ax sr, i ≠ .hencAll ax sr) → exec i s = .next t →
    (∃ e, t = raise e s) ∨
    (t.regs.status.err = s.regs.status.err ∧ t.regs.errCode = s.regs.errCode ∧ t.regs.errCmd = s.regs.errCmd)

/-- `run <command>` from an idle block, with the Engine's step placed after any number of polls of STATUS: the polls see
BUSY = 1, the command is performed once on the accepted state, and the read after it sees BUSY = 0 (30_encoding.md R139
to R141, 43_control.md R250, R252, 20_memory.md R116). -/
def Obligations.RunPerformsCommand : Prop :=
  ∀ (s : State) (i : Instr) (polls : Nat) (rest : List Input), WellFormed i → s.regs.status.busy = false →
    s.inputs = runCommand i polls ++ rest →
    ∃ t, exec i { accept (encode i) s with
          inputs := .host (.read 0x024 4) :: rest
          replies := List.replicate polls (statusWord (accept (encode i) s).regs.status) ++ s.replies } = .next t ∧
      Sys2Proof.core.run (polls + 3) s = .next { complete t with
          inputs := rest
          replies := statusWord (complete t).regs.status :: t.replies } ∧
      (statusWord (accept (encode i) s).regs.status).getLsbD 0 = true ∧
      (statusWord (complete t).regs.status).getLsbD 0 = false

/-! ### Reset -/

/-- R292: what a host reads from every register after reset (the parameter registers read their constants), PEND and the
interrupt output. -/
def Obligations.ResetRegisterWords : Prop :=
  ([(Reg.id, 0x50475331), (.ctrl, 0), (.status, 0), (.errCode, 0), (.cmd, 0), (.errCmd, 0), (.imgW, 0), (.imgH, 0),
    (.cfgS, 0), (.cfgL, 0), (.sampleRad, 0), (.chMax, 0x00F0B0FF), (.ftN, 0), (.filtStart, 0), (.filtEnd, 0x0000FFFF),
    (.filtMode, 1), (.clen, 0), (.lcnt, 0), (.decOff, 0), (.decRuns, 0), (.decLen, 0), (.decEnd, 0), (.gammaLo, 0),
    (.gammaHi, 0x40120000), (.cxLo, 0), (.cxHi, 0), (.cyLo, 0), (.cyHi, 0), (.rinLo, 0), (.rinHi, 0), (.routLo, 0),
    (.routHi, 0), (.gridS, 0), (.gridL, 0), (.coefNRad, 0), (.coefNAng, 0), (.invLen, 0), (.convCount, 0)]
      : List (Reg × Word)).all (fun p => decide (regRead State.reset p.1 = p.2)) = true ∧
  State.reset.regs.pend = 0 ∧ irq State.reset = false ∧
  regRead State.reset .paramSL = BitVec.ofNat 32 (Config.lMax * 65536 + Config.sMax) ∧
  regRead State.reset .paramWH = BitVec.ofNat 32 (Config.hMax * 65536 + Config.wMax) ∧
  regRead State.reset .paramNR = BitVec.ofNat 32 (Config.radMax * 65536 + Config.nMax) ∧
  regRead State.reset .paramCbuf = BitVec.ofNat 32 Config.cbufBytes ∧
  regRead State.reset .paramLtab = BitVec.ofNat 32 Config.ltabMax

/-- A host write to CTRL with bit 3 = 1, at any time, and the hardware reset input both give every register its reset
value, discard a pending command and lower IRQ; the first leaves the memories, the second leaves every cell unwritten
(70_reset_and_hazards.md R290, R291, R301; the cells' unspecified values: log entry 3). -/
def Obligations.ResetEvents : Prop :=
  ∀ s : State,
    (∀ v : Word, v.getLsbD 3 = true → hostWrite 0x020 4 v s = { s with regs := State.reset.regs }) ∧
    (∀ rest, s.inputs = .hardReset :: rest →
      step s = .next { s with regs := State.reset.regs, mems := State.reset.mems, inputs := rest, resets := s.resets + 1 }) ∧
    irq { s with regs := State.reset.regs } = false ∧ State.reset.regs.status.busy = false ∧
    State.reset.regs.status.done = false

/-! ### The host port -/

/-- R91, R95: a transaction of the wrong size, misaligned or at an unmapped offset, and a write to a read-only register or
window, sets BUSERR and does nothing else; such a read returns 0. -/
def Obligations.IllegalAccessSetsBusErr : Prop :=
  ∀ (s : State) (off size : Nat) (v : Word),
    (size ≠ 4 ∨ off % 4 ≠ 0 ∨ mapOffset off = none →
      hostRead off size s
        = (0, { s with regs := { s.regs with status := { s.regs.status with busErr := true } } }) ∧
      hostWrite off size v s = { s with regs := { s.regs with status := { s.regs.status with busErr := true } } }) ∧
    (∀ t, mapOffset off = some t → targetWritable t = false →
      hostWrite off size v s = { s with regs := { s.regs with status := { s.regs.status with busErr := true } } })

/-- R110: while BUSY = 1 a legal transaction to any window is refused: a read returns 0, a write has no effect, HAZ is
set. -/
def Obligations.WindowsRefusedWhileBusy : Prop :=
  ∀ (s : State) (off : Nat) (v : Word) (t : Target), s.regs.status.busy = true → off % 4 = 0 →
    mapOffset off = some t → (∀ r, t ≠ .reg r) →
    hostRead off 4 s = (0, { s with regs := { s.regs with status := { s.regs.status with haz := true } } }) ∧
    (targetWritable t = true →
      hostWrite off 4 v s = { s with regs := { s.regs with status := { s.regs.status with haz := true } } })

/-- R111: while BUSY = 1 registers are read normally, CTRL, STATUS and CMD are written normally, and a write to any other
writable register only sets HAZ. The normal writes, the same for both values of BUSY: CTRL with bit 3 = 0 stores the three
enables, with bit 3 = 1 it resets (10_state.md R40); STATUS clears exactly the W1C flags written 1, and ERRCODE and ERRCMD
with ERR (R41); a CMD write is rejected while BUSY = 1 (43_control.md R251; while BUSY = 0: CmdWriteAccepted). -/
def Obligations.RegistersWhileBusy : Prop :=
  ∀ (s : State) (v : Word),
    (v.getLsbD 3 = true → hostWrite 0x020 4 v s = { s with regs := State.reset.regs }) ∧
    (v.getLsbD 3 = false → hostWrite 0x020 4 v s = { s with regs := { s.regs with
      ctrl := { ieDone := v.getLsbD 0, ieErr := v.getLsbD 1, ieBus := v.getLsbD 2 } } }) ∧
    hostWrite 0x024 4 v s = { s with regs := { s.regs with
      errCode := if v.getLsbD 2 then 0 else s.regs.errCode
      errCmd := if v.getLsbD 2 then 0 else s.regs.errCmd
      status := { s.regs.status with
        done := s.regs.status.done && !v.getLsbD 1, err := s.regs.status.err && !v.getLsbD 2
        haz := s.regs.status.haz && !v.getLsbD 3, busErr := s.regs.status.busErr && !v.getLsbD 4
        trunc8 := s.regs.status.trunc8 && !v.getLsbD 5 } } } ∧
    (s.regs.status.busy = true →
      (∀ r, hostRead (regOffset r) 4 s = (regRead s r, s)) ∧
      hostWrite 0x02C 4 v s = { s with regs := { s.regs with
        errCode := if s.regs.status.err then s.regs.errCode else 2
        errCmd := if s.regs.status.err then s.regs.errCmd else v
        status := { s.regs.status with err := true } } } ∧
      ∀ r ∈ Reg.clen :: configFields.map Prod.fst,
        hostWrite (regOffset r) 4 v s = { s with regs := { s.regs with status := { s.regs.status with haz := true } } })

/-- The address map is exact: an aligned offset names a target exactly when the target exists within its bounds and R93
places it there; no two offsets name the same word (20_memory.md R93, R94, 30_encoding.md R138; the bounds of WIDE and
IMPROJ: log entry 8). -/
def Obligations.AddressMapIsExact : Prop :=
  ∀ (off : Nat) (t : Target), off % 4 = 0 →
    (mapOffset off = some t ↔ targetExists t = true ∧ targetOffset t = off)

/-- R98, R99, R100: writing a word of IMG or FULL stores bits 23..0 and changes no other cell, memory or register; reading
it back gives {0x00, color}; and the ring window reads the same word as the FULL window, always. -/
def Obligations.ImageAndGridWindows : Prop :=
  ∀ (s : State) (a b : Nat) (v : Word), s.regs.status.busy = false →
    (a < Config.wMax → b < Config.hMax →
      hostRead (imgOffset a b) 4 s = ((readImg s b a).setWidth 32, s) ∧
      let t := hostWrite (imgOffset a b) 4 v s
      t.regs = s.regs ∧ KeepsPort s t ∧ readImg t b a = v.extractLsb' 0 24 ∧
      (∀ y x, x < 2048 → (y, x) ≠ (b, a) → readImg t y x = readImg s y x) ∧
      KeepsMems [.new, .conv, .full, .coefRad, .coefAng, .wide, .inv, .cbuf, .ltab, .dbuf] s t ∧
      hostRead (imgOffset a b) 4 t = ((v.extractLsb' 0 24).setWidth 32, t)) ∧
    (a < Config.sMax → b < Config.lMax →
      hostRead (fullOffset a b) 4 s = ((readFull s a b).setWidth 32, s) ∧
      hostRead (ringOffset b a) 4 s = ((readFull s a b).setWidth 32, s) ∧
      let t := hostWrite (fullOffset a b) 4 v s
      t.regs = s.regs ∧ KeepsPort s t ∧ readFull t a b = v.extractLsb' 0 24 ∧
      (∀ y x, x < 256 → (y, x) ≠ (a, b) → readFull t y x = readFull s y x) ∧
      KeepsMems [.img, .new, .conv, .coefRad, .coefAng, .wide, .inv, .cbuf, .ltab, .dbuf] s t ∧
      hostRead (fullOffset a b) 4 t = ((v.extractLsb' 0 24).setWidth 32, t) ∧
      hostRead (ringOffset b a) 4 t = ((v.extractLsb' 0 24).setWidth 32, t))

/-- R107: a CBUF word holds four bytes, the first in bits 7..0; a write sets the four and neither CLEN nor LCNT, nor
anything else. -/
def Obligations.CbufWindow : Prop :=
  ∀ (s : State) (q : Nat) (v : Word), s.regs.status.busy = false → 4 * q + 3 < Config.cbufBytes →
    hostRead (cbufOffset q) 4 s
      = (readCbuf s (4 * q + 3) ++ readCbuf s (4 * q + 2) ++ readCbuf s (4 * q + 1) ++ readCbuf s (4 * q), s) ∧
    let t := hostWrite (cbufOffset q) 4 v s
    t.regs = s.regs ∧ KeepsPort s t ∧
    readCbuf t (4 * q) = v.extractLsb' 0 8 ∧ readCbuf t (4 * q + 1) = v.extractLsb' 8 8 ∧
    readCbuf t (4 * q + 2) = v.extractLsb' 16 8 ∧ readCbuf t (4 * q + 3) = v.extractLsb' 24 8 ∧
    (∀ p, p / 4 ≠ q → readCbuf t p = readCbuf s p) ∧
    KeepsMems [.img, .new, .conv, .full, .coefRad, .coefAng, .wide, .inv, .ltab, .dbuf] s t ∧
    hostRead (cbufOffset q) 4 t = (v, t)

/-- R101 to R106, R108, R109: what the read-only windows return while no command is pending: CONV bits, NEW colors marked
by bit 24, INV colors, WIDE words, halves of the F64 parts of COEF, projections wrapped to 8 bits, LTAB words and DBUF
colors; none of these reads changes anything (R112). -/
def Obligations.ResultWindows : Prop :=
  ∀ s : State, s.regs.status.busy = false →
    (∀ k b, k < (Config.sMax + 31) / 32 → b < 32 →
      (hostRead (convOffset k) 4 s).1.getLsbD b = (decide (32 * k + b < Config.sMax) && readConv s (32 * k + b)) ∧
      (hostRead (convOffset k) 4 s).2 = s) ∧
    (∀ sec l, sec < Config.sMax → l < Config.lMax →
      hostRead (newOffset sec l) 4 s =
        (match readNew s sec l with
          | some c => 0x01000000 ||| c.setWidth 32
          | none => 0x00000000, s) ∧
      hostRead (invOffset sec l) 4 s = ((readInv s sec l).setWidth 32, s) ∧
      ∀ k, hostRead (wideOffset sec l k) 4 s = (readWide s sec l k, s)) ∧
    (∀ ax n k, (match ax with
        | .rad => n < Config.sMax ∧ k < Config.lMax
        | .ang => n < Config.lMax ∧ k < Config.sMax) →
      (∀ c, hostRead (coefOffset ax n k c false false) 4 s = ((readCoef s ax n k c).re.extractLsb' 0 32, s) ∧
        hostRead (coefOffset ax n k c false true) 4 s = ((readCoef s ax n k c).re.extractLsb' 32 32, s) ∧
        hostRead (coefOffset ax n k c true false) 4 s = ((readCoef s ax n k c).im.extractLsb' 0 32, s) ∧
        hostRead (coefOffset ax n k c true true) 4 s = ((readCoef s ax n k c).im.extractLsb' 32 32, s)) ∧
      hostRead (projOffset ax false n k) 4 s =
        ((0 : BitVec 8) ++ BitVec.ofInt 8 (F64.trunc (readCoef s ax n k .red).re) ++
          BitVec.ofInt 8 (F64.trunc (readCoef s ax n k .green).re) ++
          BitVec.ofInt 8 (F64.trunc (readCoef s ax n k .blue).re), s) ∧
      hostRead (projOffset ax true n k) 4 s =
        ((0 : BitVec 8) ++ BitVec.ofInt 8 (F64.trunc (readCoef s ax n k .red).im) ++
          BitVec.ofInt 8 (F64.trunc (readCoef s ax n k .green).im) ++
          BitVec.ofInt 8 (F64.trunc (readCoef s ax n k .blue).im), s)) ∧
    (∀ e, e < Config.ltabMax →
      hostRead (ltabOffset e 0) 4 s = ((readLtab s e).offset, s) ∧
      hostRead (ltabOffset e 1) 4 s = ((readLtab s e).length, s) ∧
      hostRead (ltabOffset e 2) 4 s = ((readLtab s e).leaves ++ (readLtab s e).runs, s) ∧
      hostRead (ltabOffset e 3) 4 s =
        ((0 : BitVec 14) ++ BitVec.ofBool (decide ((readLtab s e).sr = .inv)) ++
          BitVec.ofBool (decide ((readLtab s e).ax = .ang)) ++ (readLtab s e).line, s)) ∧
    (∀ p, p < 256 → hostRead (dbufOffset p) 4 s = ((readDbuf s p).setWidth 32, s))

/-- R55: a host write of v to CLEN stores min(v, CBUF_BYTES), and nothing else changes. -/
def Obligations.ClenIsLegalised : Prop :=
  ∀ (s : State) (v : Word), s.regs.status.busy = false →
    (hostWrite 0x068 4 v s).regs.clen.toNat = min v.toNat Config.cbufBytes ∧
    hostWrite 0x068 4 v s = { s with regs := { s.regs with clen := (hostWrite 0x068 4 v s).regs.clen } }

/-- R97: the lower word of an F64 register is bits 31..0, the higher bits 63..32; each word write replaces only its half,
so wr64 loads the register with the whole value, and changes nothing else (also 30_encoding.md R137). -/
def Obligations.F64RegistersAreHalves : Prop :=
  ∀ (s : State) (r : F64Reg) (v : Word) (x : F64) (rest : List Input), s.regs.status.busy = false →
    hostWrite (regOffset (f64RegLo r)) 4 v s
      = { s with regs := setF64 ((f64Value r s.regs).extractLsb' 32 32 ++ v) r s.regs } ∧
    hostWrite (regOffset (f64RegHi r)) 4 v s
      = { s with regs := setF64 (v ++ (f64Value r s.regs).extractLsb' 0 32) r s.regs } ∧
    hostRead (regOffset (f64RegLo r)) 4 s = ((f64Value r s.regs).extractLsb' 0 32, s) ∧
    hostRead (regOffset (f64RegHi r)) 4 s = ((f64Value r s.regs).extractLsb' 32 32, s) ∧
    (s.inputs = wr64 r x ++ rest →
      Sys2Proof.core.run 2 s = .next { s with inputs := rest, regs := setF64 x r s.regs })

/-- A host write of v to a configuration register while BUSY = 0 stores the bits of v that its fields cover and no other
(reserved bits read back as 0), and no other register, no memory and no flag changes (20_memory.md R96, R113, 10_state.md
R45 to R65; CLEN is legalised instead: ClenIsLegalised). -/
def Obligations.ConfigurationWritesStore : Prop :=
  ∀ (s : State) (v : Word) (r : Reg) (mask : Word), s.regs.status.busy = false →
    (r, mask) ∈ configFields →
    let t := hostWrite (regOffset r) 4 v s
    regRead t r = v &&& mask ∧ (∀ r', r' ≠ r → regRead t r' = regRead s r') ∧
    t.regs.pend = s.regs.pend ∧ t.mems = s.mems ∧ KeepsPort s t

/-- R142: `clrstat` clears DONE, ERR with ERRCODE and ERRCMD, HAZ, BUSERR and TRUNC8, at any time, and nothing else. IRQ
is high exactly while a flag and its enable are both 1, in every state, and so low after `clrstat` (60_exceptions.md R275,
R281). -/
def Obligations.ClrstatClears : Prop :=
  ∀ s : State,
    (irq s = true ↔
      (s.regs.status.done = true ∧ s.regs.ctrl.ieDone = true) ∨ (s.regs.status.err = true ∧ s.regs.ctrl.ieErr = true) ∨
      ((s.regs.status.haz = true ∨ s.regs.status.busErr = true) ∧ s.regs.ctrl.ieBus = true)) ∧
    ∀ rest : List Input, s.inputs = clrstat ++ rest →
      ∃ t, step s = .next t ∧ irq t = false ∧
        t = { s with inputs := rest, regs := { s.regs with errCode := 0, errCmd := 0, status := { s.regs.status with
          done := false, err := false, haz := false, busErr := false, trunc8 := false } } }

/-! ### SAMPLE and GRID_LOAD -/

/-- SAMPLE with a legal configuration completes: it latches the shape, validates the grid, invalidates what was derived,
captures the colors that change from one sector to the next, fills FULL, marks the converted sectors and counts them, and
leaves every other cell, memory and register (40_sampler.md R150, R161 to R165, R167). The cells of a sector are 256 wide. -/
def Obligations.SampleCompletes : Prop :=
  ∀ s : State, SampleReady s →
    ∃ t, exec .sample s = .next t ∧
      t.regs = { s.regs with
        gridS := s.regs.cfgS, gridL := s.regs.cfgL
        convCount := BitVec.ofNat 16 ((List.range s.regs.cfgS.toNat).filter fun sec => readConv t sec).length
        status := { s.regs.status with
          gridValid := true, coefValidRad := false, coefValidAng := false, invValid := false } } ∧
      (∀ sec l, sec < s.regs.cfgS.toNat → l < s.regs.cfgL.toNat →
        readFull t sec l = sampleColor s sec l ∧
        readNew t sec l = (if sec = 0 ∨ sampleColor s sec l ≠ sampleColor s (sec - 1) l
          then some (sampleColor s sec l) else none)) ∧
      (∀ sec, sec < s.regs.cfgS.toNat →
        (readConv t sec = true ↔ ∃ l, l < s.regs.cfgL.toNat ∧ readNew t sec l ≠ none)) ∧
      readConv t 0 = true ∧
      (∀ sec l, l < 256 → s.regs.cfgS.toNat ≤ sec ∨ s.regs.cfgL.toNat ≤ l →
        readFull t sec l = readFull s sec l ∧ readNew t sec l = readNew s sec l) ∧
      (∀ sec, s.regs.cfgS.toNat ≤ sec → readConv t sec = readConv s sec) ∧
      KeepsMems [.img, .coefRad, .coefAng, .wide, .inv, .cbuf, .ltab, .dbuf] s t ∧ KeepsPort s t

/-- R164: the expansion of any sparse columns is, sector by sector, the new color where there is one, else the color of
the sector before, else 0. -/
def Obligations.ExpansionCarriesForward : Prop :=
  ∀ (x : List (Option Color)) (sec : Nat), sec < x.length →
    (expandColumn x).length = x.length ∧
    (expandColumn x)[sec]? = some (match x[sec]? with
      | some (some c) => c
      | _ => if sec = 0 then 0 else ((expandColumn x)[sec - 1]?).getD 0)

/-- The neighbourhood's channel sums: over dy and dx from -RAD to RAD, of the pixel at the coordinates clamped to the
image, which never leave it; each sum is at most 255 A (40_sampler.md R156, R157). -/
def Obligations.NeighbourhoodSums : Prop :=
  ∀ (s : State) (k : Channel) (cx cy : Int), 1 ≤ s.regs.imgW.toNat → 1 ≤ s.regs.imgH.toNat →
    let rad : Int := s.regs.sampleRad.toNat
    (channelSum k (neighbourhood s cx cy) =
      ∑ dy ∈ Finset.Icc (-rad) rad, ∑ dx ∈ Finset.Icc (-rad) rad,
        (channelOf k (readImg s (max 0 (min (cy + dy) (s.regs.imgH.toNat - 1))).toNat
          (max 0 (min (cx + dx) (s.regs.imgW.toNat - 1))).toNat)).toNat) ∧
    (∀ n : Int, (max 0 (min n (s.regs.imgH.toNat - 1))).toNat < s.regs.imgH.toNat ∧
      (max 0 (min n (s.regs.imgW.toNat - 1))).toNat < s.regs.imgW.toNat) ∧
    channelSum k (neighbourhood s cx cy) ≤ 255 * sampleArea s ∧
    (neighbourhood s cx cy).length = sampleArea s

/-- A white image samples to the channel maxima and a black one to 0, at every sector and light, for every legal
geometry, radius and gamma (40_sampler.md R157 to R161, 00_scope.md R19 P4; 95_test_vectors.md V2). -/
def Obligations.WhiteAndBlackImages : Prop :=
  ∀ s t : State, SampleReady s → exec .sample s = .next t →
    ∀ sec l, sec < s.regs.cfgS.toNat → l < s.regs.cfgL.toNat →
      ((∀ y x, y < s.regs.imgH.toNat → x < s.regs.imgW.toNat → readImg s y x = 0xFFFFFF) →
        readFull t sec l = s.regs.rMax ++ s.regs.gMax ++ s.regs.bMax) ∧
      ((∀ y x, y < s.regs.imgH.toNat → x < s.regs.imgW.toNat → readImg s y x = 0x000000) →
        readFull t sec l = 0x000000)

/-- R168: two SAMPLE commands on the same image and the same register values write the same values, whatever else the
two states hold. -/
def Obligations.SampleIsDeterministic : Prop :=
  ∀ s s' t t' : State, SampleReady s →
    s'.regs.imgW = s.regs.imgW → s'.regs.imgH = s.regs.imgH → s'.regs.cfgS = s.regs.cfgS → s'.regs.cfgL = s.regs.cfgL →
    s'.regs.sampleRad = s.regs.sampleRad → s'.regs.rMax = s.regs.rMax → s'.regs.gMax = s.regs.gMax →
    s'.regs.bMax = s.regs.bMax → s'.regs.gamma = s.regs.gamma → s'.regs.cx = s.regs.cx → s'.regs.cy = s.regs.cy →
    s'.regs.rin = s.regs.rin → s'.regs.rout = s.regs.rout →
    (∀ y x, y < s.regs.imgH.toNat → x < s.regs.imgW.toNat → readImg s' y x = readImg s y x) →
    exec .sample s = .next t → exec .sample s' = .next t' →
    (∀ sec l, sec < s.regs.cfgS.toNat → l < s.regs.cfgL.toNat →
      readFull t' sec l = readFull t sec l ∧ readNew t' sec l = readNew t sec l) ∧
    (∀ sec, sec < s.regs.cfgS.toNat → readConv t' sec = readConv t sec) ∧
    t'.regs.convCount = t.regs.convCount ∧ t'.regs.gridS = t.regs.gridS ∧ t'.regs.gridL = t.regs.gridL

/-- GRID_LOAD with a legal shape completes: it latches the shape, forgets the captured colors and the converted sectors
within it, and leaves FULL and everything else (40_sampler.md R170). -/
def Obligations.GridLoadCompletes : Prop :=
  ∀ s : State, ShapeReady s →
    ∃ t, exec .gridLoad s = .next t ∧
      t.regs = { s.regs with
        gridS := s.regs.cfgS, gridL := s.regs.cfgL, convCount := 0
        status := { s.regs.status with
          gridValid := true, coefValidRad := false, coefValidAng := false, invValid := false } } ∧
      (∀ sec l, sec < s.regs.cfgS.toNat → l < s.regs.cfgL.toNat → readNew t sec l = none) ∧
      (∀ sec, sec < s.regs.cfgS.toNat → readConv t sec = false) ∧
      (∀ sec l, l < 256 → s.regs.cfgS.toNat ≤ sec ∨ s.regs.cfgL.toNat ≤ l → readNew t sec l = readNew s sec l) ∧
      (∀ sec, s.regs.cfgS.toNat ≤ sec → readConv t sec = readConv s sec) ∧
      KeepsMems [.img, .full, .coefRad, .coefAng, .wide, .inv, .cbuf, .ltab, .dbuf] s t ∧ KeepsPort s t

/-! ### FWD and INV -/

/-- FWD on a valid grid with a legal block size completes: it stores the coefficients of every block of every line of
its axis, records N and the basis, and leaves every other entry, memory and register (41_transform.md R180, R184, R188). -/
def Obligations.FwdCompletes : Prop :=
  ∀ (s : State) (ax : Axis) (bs : Basis), ShapeInBounds s → s.regs.status.gridValid = true →
    1 ≤ s.regs.ftN.toNat → s.regs.ftN.toNat ≤ Config.nMax →
    ∃ t, exec (.fwd ax bs) s = .next t ∧
      t.regs = (match ax with
        | .rad => { s.regs with coefNRad := s.regs.ftN, status := { s.regs.status with
            coefValidRad := true, coefBasisRad := bs } }
        | .ang => { s.regs with coefNAng := s.regs.ftN, status := { s.regs.status with
            coefValidAng := true, coefBasisAng := bs } }) ∧
      (∀ n b i k, n < lineCount s ax → b < lineLength s ax / s.regs.ftN.toNat → i < s.regs.ftN.toNat →
        readCoef t ax n (b * s.regs.ftN.toNat + i) k =
          blockCoef bs (blockSamples s ax n b s.regs.ftN.toNat k) i s.regs.ftN.toNat) ∧
      (∀ n e k, e < coefStride ax →
        lineCount s ax ≤ n ∨ lineLength s ax / s.regs.ftN.toNat * s.regs.ftN.toNat ≤ e →
        readCoef t ax n e k = readCoef s ax n e k) ∧
      KeepsMems ((match ax with | .rad => .coefAng | .ang => .coefRad) ::
        [.img, .new, .conv, .full, .wide, .inv, .cbuf, .ltab, .dbuf]) s t ∧ KeepsPort s t

/-- SAMPLE and GRID_LOAD raise BAD_CONFIG when their configuration is not legal; FWD raises NOT_SAMPLED before it looks at
FT_N, then BAD_CONFIG; INV raises NO_COEF for its own axis; and then nothing else changes (40_sampler.md R151, R170,
41_transform.md R182, R191, 60_exceptions.md R263 to R265). -/
def Obligations.SampleAndTransformRefusals : Prop :=
  ∀ (s : State) (ax : Axis) (bs : Basis),
    (¬ SampleReady s → exec .sample s = .next (raise .badConfig s)) ∧
    (¬ ShapeReady s → exec .gridLoad s = .next (raise .badConfig s)) ∧
    (s.regs.status.gridValid = false → exec (.fwd ax bs) s = .next (raise .notSampled s)) ∧
    (s.regs.status.gridValid = true → ¬ (1 ≤ s.regs.ftN.toNat ∧ s.regs.ftN.toNat ≤ Config.nMax) →
      exec (.fwd ax bs) s = .next (raise .badConfig s)) ∧
    (coefValid ax s.regs.status = false → exec (.inv ax) s = .next (raise .noCoef s))

/-- R189: every coefficient of a block of centred samples is finite and at most 128 N (1 + 2^-40) in magnitude, whatever
functions COS64 and SIN64 are. -/
def Obligations.CoefficientsAreBounded : Prop :=
  ∀ (bs : Basis) (x : List Int) (i : Nat), i < x.length → x.length ≤ 4096 →
    (∀ u ∈ x, -128 ≤ u ∧ u ≤ 127) →
    let c := blockCoef bs x i x.length
    F64.isFinite c.re = true ∧ F64.isFinite c.im = true ∧
    |F64.toRat c.re| ≤ 128 * x.length * (1 + (2 : ℚ) ^ (-40 : ℤ)) ∧
    |F64.toRat c.im| ≤ 128 * x.length * (1 + (2 : ℚ) ^ (-40 : ℤ))

/-- The sums of the Fourier and cosine coefficients, one sample at a time: over no samples both parts are +0.0, and each
further sample adds its product to what the samples before it gave (41_transform.md R186, R187). -/
def Obligations.CoefficientSumsInOrder : Prop :=
  ∀ (x : List Int) (u : Int) (i N : Nat),
    fourierCoef [] i N = ⟨F64.zero, F64.zero⟩ ∧ cosineCoef [] i N = ⟨F64.zero, F64.zero⟩ ∧
    fourierCoef (x ++ [u]) i N =
      ⟨F64.add (fourierCoef x i N).re (F64.mul (F64.ofInt u) (cos64 (angleF i x.length N))),
       F64.add (fourierCoef x i N).im (F64.mul (F64.ofInt u) (sin64 (angleF i x.length N)))⟩ ∧
    cosineCoef (x ++ [u]) i N =
      ⟨F64.add (cosineCoef x i N).re (F64.mul (F64.ofInt u) (cos64 (angleC i x.length N))), F64.zero⟩

/-- INV on an axis with coefficients completes: WIDE holds each reconstructed value and INV the three clamped to [0, 255],
dropped positions hold 0, INV_LEN, INV_AXIS and INV_VALID are recorded, and every other cell, memory and register stays
(41_transform.md R191, R194, R195). -/
def Obligations.InvCompletes : Prop :=
  ∀ (s : State) (ax : Axis), ShapeInBounds s → coefValid ax s.regs.status = true →
    ∃ t, exec (.inv ax) s = .next t ∧
      t.regs = { s.regs with
        invLen := BitVec.ofNat 16 (lineLength s ax / coefN s ax * coefN s ax)
        status := { s.regs.status with invValid := true, invAxis := ax } } ∧
      (∀ n p k, n < lineCount s ax → p < lineLength s ax →
        readWide t (lineCell ax n p).1 (lineCell ax n p).2 k =
          (if p < lineLength s ax / coefN s ax * coefN s ax then
            BitVec.ofInt 32 (F64.trunc (F64.add (blockInv (coefBasis ax s.regs.status) (keepIndex s)
              ((List.range (coefN s ax)).map fun i => readCoef s ax n (p / coefN s ax * coefN s ax + i) k)
              (p % coefN s ax) (coefN s ax)) F64.c128))
          else 0)) ∧
      (∀ n p, n < lineCount s ax → p < lineLength s ax →
        readInv t (lineCell ax n p).1 (lineCell ax n p).2 =
          BitVec.ofInt 8 (max 0 (min 255 (invSample s ax n p .red))) ++
          BitVec.ofInt 8 (max 0 (min 255 (invSample s ax n p .green))) ++
          BitVec.ofInt 8 (max 0 (min 255 (invSample s ax n p .blue)))) ∧
      (∀ n p, n < lineCount s ax → lineLength s ax / coefN s ax * coefN s ax ≤ p → p < lineLength s ax →
        readInv t (lineCell ax n p).1 (lineCell ax n p).2 = 0x000000) ∧
      (∀ sec l, l < 256 → s.regs.gridS.toNat ≤ sec ∨ s.regs.gridL.toNat ≤ l →
        readInv t sec l = readInv s sec l ∧ ∀ k, readWide t sec l k = readWide s sec l k) ∧
      KeepsMems [.img, .new, .conv, .full, .coefRad, .coefAng, .cbuf, .ltab, .dbuf] s t ∧ KeepsPort s t

/-- R190: which indices the band filter keeps; at the reset values every 16-bit index; FS > FE with INC = 1 keeps
nothing and FS >= FE with INC = 0 everything. -/
def Obligations.BandFilterKeeps : Prop :=
  ∀ (s : State) (i : Nat),
    (s.regs.filtInclusive = true →
      (keepIndex s i = true ↔ s.regs.filtStart.toNat ≤ i ∧ i ≤ s.regs.filtEnd.toNat)) ∧
    (s.regs.filtInclusive = false →
      (keepIndex s i = true ↔ i ≤ s.regs.filtStart.toNat ∨ s.regs.filtEnd.toNat ≤ i)) ∧
    (i < 65536 → keepIndex State.reset i = true) ∧
    (s.regs.filtInclusive = true → s.regs.filtEnd.toNat < s.regs.filtStart.toNat → keepIndex s i = false) ∧
    (s.regs.filtInclusive = false → s.regs.filtEnd.toNat ≤ s.regs.filtStart.toNat → keepIndex s i = true)

/-- An INV whose filter keeps no index reconstructs 128 in every channel of every position that is not dropped, whatever
the coefficients (41_transform.md R191, corner cases). -/
def Obligations.EmptyBandGives128 : Prop :=
  ∀ (s t : State) (ax : Axis), ShapeInBounds s → coefValid ax s.regs.status = true →
    (∀ i, i < coefN s ax → keepIndex s i = false) → exec (.inv ax) s = .next t →
    ∀ n p k, n < lineCount s ax → p < lineLength s ax / coefN s ax * coefN s ax →
      readWide t (lineCell ax n p).1 (lineCell ax n p).2 k = 128 ∧
      readInv t (lineCell ax n p).1 (lineCell ax n p).2 = 0x808080

/-- With N = 1 and index 0 kept, FWD then INV gives every cell of the grid back exactly, on either axis, in either basis
(41_transform.md R180 corner case, R197; 95_test_vectors.md V25). -/
def Obligations.SingleSampleRoundTrip : Prop :=
  ∀ (s t u : State) (ax : Axis) (bs : Basis), ShapeInBounds s → s.regs.status.gridValid = true →
    s.regs.ftN = 1 → keepIndex s 0 = true → exec (.fwd ax bs) s = .next t → exec (.inv ax) t = .next u →
    ∀ sec l, sec < s.regs.gridS.toNat → l < s.regs.gridL.toNat →
      readInv u sec l = readFull s sec l ∧
      ∀ k, readWide u sec l k = (channelOf k (readFull s sec l)).setWidth 32

/-- The truncation of a reconstructed value: within half of v - 128 it gives v, or v - 1 when v >= 1; at v - 128 exactly
it gives v (41_transform.md R194, R197; R197 says it for errors below 1, where the last addition may round up to v + 1:
log entry 16). -/
def Obligations.ReconstructionTruncates : Prop :=
  ∀ (y : F64) (v : Nat), v ≤ 255 → F64.isFinite y = true →
    (|F64.toRat y - ((v : ℚ) - 128)| ≤ 1 / 2 →
      F64.trunc (F64.add y F64.c128) = v ∨ (1 ≤ v ∧ F64.trunc (F64.add y F64.c128) = v - 1)) ∧
    (F64.toRat y = (v : ℚ) - 128 → F64.trunc (F64.add y F64.c128) = v)

/-! ### The codec -/

/-- HENC_LINE on a valid source, a line that exists and buffers with room completes: the line's buffer is appended at
CLEN, its entry at LCNT, CLEN and LCNT advance, TRUNC8 is set for a line of more than 256 samples, and every other
byte, entry, memory and register stays (42_codec.md R219, R221, R222). -/
def Obligations.HencLineCompletes : Prop :=
  ∀ (s : State) (ax : Axis) (sr : Source) (idx : Nat), SourceValid sr s → idx < lineCount s ax →
    s.regs.lcnt.toNat ≠ Config.ltabMax → s.regs.clen.toNat + lineBytes s sr ax idx ≤ Config.cbufBytes →
    ∃ t, exec (.hencLine ax sr idx) s = .next t ∧
      t.regs = { s.regs with
        lcnt := s.regs.lcnt + 1
        clen := BitVec.ofNat 32 (s.regs.clen.toNat + lineBytes s sr ax idx)
        status := { s.regs.status with trunc8 := s.regs.status.trunc8 || decide (256 < lineLength s ax) } } ∧
      (∀ q, q < lineBytes s sr ax idx →
        some (readCbuf t (s.regs.clen.toNat + q)) = (encodeLine (codecLine s sr ax idx)).bytes[q]?) ∧
      (∀ q, q < s.regs.clen.toNat ∨ s.regs.clen.toNat + lineBytes s sr ax idx ≤ q → readCbuf t q = readCbuf s q) ∧
      readLtab t s.regs.lcnt.toNat =
        { offset := s.regs.clen, length := BitVec.ofNat 32 (lineBytes s sr ax idx)
          leaves := BitVec.ofNat 16 (encodeLine (codecLine s sr ax idx)).leaves
          runs := BitVec.ofNat 16 (encodeLine (codecLine s sr ax idx)).runs
          sr := sr, ax := ax, line := BitVec.ofNat 16 idx } ∧
      (∀ e, e ≠ s.regs.lcnt.toNat → readLtab t e = readLtab s e) ∧
      KeepsMems [.img, .new, .conv, .full, .coefRad, .coefAng, .wide, .inv, .dbuf] s t ∧ KeepsPort s t

/-- The errors of HENC_LINE and of HENC_ALL's check, in their order: NOT_SAMPLED or NO_INV, BAD_INDEX, LTAB_OVERFLOW,
CBUF_OVERFLOW; nothing else changes (42_codec.md R220 to R222, 60_exceptions.md R264, R266 to R269). HENC_ALL's own
CBUF_OVERFLOW, which does change CLEN and LCNT, is HencAllOverflowTruncates. -/
def Obligations.EncodeRefusals : Prop :=
  ∀ (s : State) (ax : Axis) (sr : Source) (idx : Nat),
    (s.regs.status.gridValid = false → exec (.hencLine ax .full idx) s = .next (raise .notSampled s) ∧
      exec (.hencAll ax .full) s = .next (raise .notSampled s)) ∧
    (s.regs.status.invValid = false → exec (.hencLine ax .inv idx) s = .next (raise .noInv s) ∧
      exec (.hencAll ax .inv) s = .next (raise .noInv s)) ∧
    (SourceValid sr s →
      (lineCount s ax ≤ idx → exec (.hencLine ax sr idx) s = .next (raise .badIndex s)) ∧
      (idx < lineCount s ax →
        (s.regs.lcnt.toNat = Config.ltabMax → exec (.hencLine ax sr idx) s = .next (raise .ltabOverflow s)) ∧
        (s.regs.lcnt.toNat ≠ Config.ltabMax → Config.cbufBytes < s.regs.clen.toNat + lineBytes s sr ax idx →
          exec (.hencLine ax sr idx) s = .next (raise .cbufOverflow s))))

/-- HENC_ALL on a valid source whose lines fit completes: CBUF holds the buffers of all lines in index order from offset
0 on, LTAB one entry for each, CLEN and LCNT their totals; every other byte, entry, memory and register stays (42_codec.md
R221, R223, 00_scope.md R3). -/
def Obligations.HencAllWritesTheStream : Prop :=
  ∀ (s : State) (ax : Axis) (sr : Source), ShapeInBounds s → SourceValid sr s →
    lineStart s sr ax (lineCount s ax) ≤ Config.cbufBytes →
    ∃ t, exec (.hencAll ax sr) s = .next t ∧
      t.regs = { s.regs with
        lcnt := BitVec.ofNat 16 (lineCount s ax)
        clen := BitVec.ofNat 32 (lineStart s sr ax (lineCount s ax))
        status := { s.regs.status with
          trunc8 := s.regs.status.trunc8 || (decide (0 < lineCount s ax) && decide (256 < lineLength s ax)) } } ∧
      (∀ n q, n < lineCount s ax → q < lineBytes s sr ax n →
        some (readCbuf t (lineStart s sr ax n + q)) = (encodeLine (codecLine s sr ax n)).bytes[q]?) ∧
      (∀ q, lineStart s sr ax (lineCount s ax) ≤ q → readCbuf t q = readCbuf s q) ∧
      (∀ n, n < lineCount s ax → readLtab t n =
        { offset := BitVec.ofNat 32 (lineStart s sr ax n), length := BitVec.ofNat 32 (lineBytes s sr ax n)
          leaves := BitVec.ofNat 16 (encodeLine (codecLine s sr ax n)).leaves
          runs := BitVec.ofNat 16 (encodeLine (codecLine s sr ax n)).runs
          sr := sr, ax := ax, line := BitVec.ofNat 16 n }) ∧
      (∀ e, lineCount s ax ≤ e → readLtab t e = readLtab s e) ∧
      KeepsMems [.img, .new, .conv, .full, .coefRad, .coefAng, .wide, .inv, .dbuf] s t ∧ KeepsPort s t

/-- HENC_ALL on a valid source whose lines do not all fit raises CBUF_OVERFLOW at the first line m that does not, and
presents no partial stream: CLEN and LCNT are 0. The bytes and entries of the lines before m stay in CBUF and LTAB, TRUNC8
is set if one of them has more than 256 samples, and every other byte, entry, memory and register stays (42_codec.md R221,
R223, 60_exceptions.md R260, R268). -/
def Obligations.HencAllOverflowTruncates : Prop :=
  ∀ (s : State) (ax : Axis) (sr : Source), ShapeInBounds s → SourceValid sr s →
    Config.cbufBytes < lineStart s sr ax (lineCount s ax) →
    ∃ m t, m < lineCount s ax ∧ lineStart s sr ax m ≤ Config.cbufBytes ∧
      Config.cbufBytes < lineStart s sr ax (m + 1) ∧ exec (.hencAll ax sr) s = .next t ∧
      t.regs = { s.regs with
        lcnt := 0, clen := 0
        errCode := if s.regs.status.err then s.regs.errCode else 8
        errCmd := if s.regs.status.err then s.regs.errCmd else s.regs.pend
        status := { s.regs.status with
          err := true
          trunc8 := s.regs.status.trunc8 || (decide (0 < m) && decide (256 < lineLength s ax)) } } ∧
      (∀ n q, n < m → q < lineBytes s sr ax n →
        some (readCbuf t (lineStart s sr ax n + q)) = (encodeLine (codecLine s sr ax n)).bytes[q]?) ∧
      (∀ q, lineStart s sr ax m ≤ q → readCbuf t q = readCbuf s q) ∧
      (∀ n, n < m → readLtab t n =
        { offset := BitVec.ofNat 32 (lineStart s sr ax n), length := BitVec.ofNat 32 (lineBytes s sr ax n)
          leaves := BitVec.ofNat 16 (encodeLine (codecLine s sr ax n)).leaves
          runs := BitVec.ofNat 16 (encodeLine (codecLine s sr ax n)).runs
          sr := sr, ax := ax, line := BitVec.ofNat 16 n }) ∧
      (∀ e, m ≤ e → readLtab t e = readLtab s e) ∧
      KeepsMems [.img, .new, .conv, .full, .coefRad, .coefAng, .wide, .inv, .dbuf] s t ∧ KeepsPort s t

/-- NOP has no effect and CBUF_CLEAR sets CLEN and LCNT to 0 and erases nothing, in every state (43_control.md R254,
42_codec.md R224). -/
def Obligations.NopAndCbufClearComplete : Prop :=
  ∀ s : State, exec .nop s = .next s ∧
    ∃ t, exec .cbufClear s = .next t ∧ t.regs = { s.regs with clen := 0, lcnt := 0 } ∧
      KeepsMems allMems s t ∧ KeepsPort s t

/-- HDEC on legal operands and a stream that reads as a line completes: DBUF[p], p < DEC_LEN, is the color of the run
that covers p, DEC_END is the offset after the line, and every other cell, memory and register stays (42_codec.md R236). -/
def Obligations.HdecCompletes : Prop :=
  ∀ (s : State) (d : Decoded), HdecReady s →
    readLine (decByte s) s.regs.decOff.toNat s.regs.decRuns.toNat s.regs.decLen.toNat = .ok d →
    ∃ t, exec .hdec s = .next t ∧
      t.regs = { s.regs with decEnd := BitVec.ofNat 32 d.decEnd } ∧ d.decEnd ≤ s.regs.clen.toNat ∧
      (∀ p, p < s.regs.decLen.toNat → (p, readDbuf t p) ∈ d.cells) ∧
      (∀ p, s.regs.decLen.toNat ≤ p → readDbuf t p = readDbuf s p) ∧
      KeepsMems [.img, .new, .conv, .full, .coefRad, .coefAng, .wide, .inv, .cbuf, .ltab] s t ∧ KeepsPort s t

/-- HDEC raises BAD_OPERAND first, DEC_TRUNCATED when the first tree word is not below CLEN, and on any error of the
stream raises that error and writes nothing (42_codec.md R230, R231, R236, 60_exceptions.md R270, R271). -/
def Obligations.DecodeRefusals : Prop :=
  ∀ s : State,
    (¬ HdecReady s → exec .hdec s = .next (raise .badOperand s)) ∧
    (HdecReady s → s.regs.clen.toNat < s.regs.decOff.toNat + 4 → exec .hdec s = .next (raise .decTruncated s)) ∧
    (∀ e, HdecReady s →
      readLine (decByte s) s.regs.decOff.toNat s.regs.decRuns.toNat s.regs.decLen.toNat = .error e →
      exec .hdec s = .next (raise e s))

/-- R237: where CBUF holds, below CLEN, the buffer of a line x of 1 to 256 samples, HDEC at its offset with its run count
and length raises no error, gives the line back in DBUF, and sets DEC_END to the buffer's end. -/
def Obligations.HdecReadsBackTheLine : Prop :=
  ∀ (s : State) (x : List Color), x ≠ [] → x.length ≤ 256 →
    s.regs.decLen.toNat = x.length → s.regs.decRuns.toNat = (encodeLine x).runs →
    (∀ q, q < (encodeLine x).bytes.length →
      some (readCbuf s (s.regs.decOff.toNat + q)) = (encodeLine x).bytes[q]?) →
    s.regs.decOff.toNat + (encodeLine x).bytes.length ≤ s.regs.clen.toNat →
    ∃ t, exec .hdec s = .next t ∧
      t.regs = { s.regs with decEnd := BitVec.ofNat 32 (s.regs.decOff.toNat + (encodeLine x).bytes.length) } ∧
      (∀ p, p < x.length → some (readDbuf t p) = x[p]?) ∧
      (∀ p, x.length ≤ p → readDbuf t p = readDbuf s p) ∧
      KeepsMems [.img, .new, .conv, .full, .coefRad, .coefAng, .wide, .inv, .cbuf, .ltab] s t ∧ KeepsPort s t

/-- R225: no code of a line's codebook is a prefix of another; the tree has a leaf for each distinct color of the line,
and no other (42_codec.md R211 to R213). -/
def Obligations.CodesArePrefixFree : Prop :=
  ∀ (x : List Color) (t : Tree), buildTree x = some t →
    (∀ c, c ∈ x ↔ c ∈ (codebook t).map Prod.fst) ∧ ((codebook t).map Prod.fst).Nodup ∧
    ∀ a b, a ∈ x → b ∈ x → a ≠ b → ¬ codeBits (codeOf t a) <+: codeBits (codeOf t b)

/-- R226: the length of the buffer of a line with K distinct colors, R runs and B code bits; a line of one color has one
run and 5 bytes. -/
def Obligations.BufferSize : Prop :=
  ∀ (x : List Color) (t : Tree), buildTree x = some t →
    (encodeLine x).bytes.length =
      4 * ((26 * (encodeLine x).leaves - 1 + 31) / 32) + ((runBits t (runsOf x)).length + 7) / 8 + (encodeLine x).runs ∧
    (encodeLine x).leaves = x.toFinset.card ∧
    ((encodeLine x).leaves = 1 → (encodeLine x).runs = 1 ∧ (encodeLine x).bytes.length = 5)

/-- R215: the runs of a line start at 0, rise strictly, each has the color of the sample at its start, and the starts
above 0 are exactly the positions where the color differs from the one before. -/
def Obligations.RunsCoverTheLine : Prop :=
  ∀ (x : List Color), x ≠ [] →
    ((runsOf x).map Prod.snd).head? = some 0 ∧ ((runsOf x).map Prod.snd).Pairwise (· < ·) ∧
    (∀ r ∈ runsOf x, x[r.2]? = some r.1) ∧
    (∀ p, 0 < p → p < x.length → ((p ∈ (runsOf x).map Prod.snd) ↔ x[p]? ≠ x[p - 1]?))

/-! ### Numbers -/

/-- P1 to P4 hold of COS64, SIN64 and POW64, whatever functions the implementation uses (00_scope.md R19). -/
def Obligations.ParameterFunctionsBounded : Prop :=
  (∀ x, F64.isFinite x = true →
    (F64.isFinite (cos64 x) = true ∧ |F64.toRat (cos64 x)| ≤ 1) ∧
    (F64.isFinite (sin64 x) = true ∧ |F64.toRat (sin64 x)| ≤ 1)) ∧
  cos64 F64.zero = F64.one ∧ sin64 F64.zero = F64.zero ∧
  (∀ x y, F64.isFinite x = true → F64.isFinite y = true → 0 ≤ F64.toRat x → F64.toRat x ≤ 1 → 0 < F64.toRat y →
    F64.isFinite (pow64 x y) = true ∧ 0 ≤ F64.toRat (pow64 x y) ∧ F64.toRat (pow64 x y) ≤ 1) ∧
  (∀ y, F64.isFinite y = true → 0 < F64.toRat y → pow64 F64.one y = F64.one ∧ pow64 F64.zero y = F64.zero)

/-- P5: where the real power x^y of a number x in [0, 1] and a number y > 0 is exactly an F64, POW64 gives that number
(00_scope.md R19). -/
def Obligations.ExactPowersAreGiven : Prop :=
  ∀ x y r : F64, F64.isFinite x = true → F64.isFinite y = true → F64.isFinite r = true →
    0 ≤ F64.toRat x → F64.toRat x ≤ 1 → 0 < F64.toRat y →
    ((F64.toRat x : ℚ) : ℝ) ^ ((F64.toRat y : ℚ) : ℝ) = ((F64.toRat r : ℚ) : ℝ) →
    F64.toRat (pow64 x y) = F64.toRat r

/-- fadd, fmul and fdiv of finite numbers round the exact result to nearest, ties to even (00_scope.md R17; the
standard's details that R17 does not spell out: log entry 17). -/
def Obligations.ArithmeticIsRoundedToNearest : Prop :=
  ∀ a b : F64, F64.isFinite a = true → F64.isFinite b = true →
    F64.NearestEven (F64.toRat a + F64.toRat b) (F64.add a b) ∧
    F64.NearestEven (F64.toRat a - F64.toRat b) (F64.sub a b) ∧
    F64.NearestEven (F64.toRat a * F64.toRat b) (F64.mul a b) ∧
    (F64.toRat b ≠ 0 → F64.NearestEven (F64.toRat a / F64.toRat b) (F64.div a b))

/-- floor and trunc of a finite number are the integers toward minus infinity and toward zero, and f(n) is exact below
2^53 (00_scope.md R17). -/
def Obligations.ConversionsAreExact : Prop :=
  (∀ x : F64, F64.isFinite x = true →
    F64.floor x = ⌊F64.toRat x⌋ ∧ F64.trunc x = (if 0 ≤ F64.toRat x then ⌊F64.toRat x⌋ else ⌈F64.toRat x⌉)) ∧
  (∀ x : F64, F64.isFinite x = false → F64.floor x = 0 ∧ F64.trunc x = 0) ∧
  (∀ n : Int, |n| < 2 ^ 53 → F64.isFinite (F64.ofInt n) = true ∧ F64.toRat (F64.ofInt n) = n)

/-! ### Invariants -/

/-- The reset state meets the invariant. -/
def Obligations.ResetMeetsInvariant : Prop := Inv State.reset

/-- Every step keeps the invariant: the latched shape, the validity flags, the stream's bounds, the handshake, the error
registers, and the memories' canonical form and bounds (10_state.md R42 to R81, 20_memory.md R122, 43_control.md R250 to
R252). -/
def Obligations.StepKeepsInvariant : Prop := ∀ s t : State, Inv s → step s = .next t → Inv t

/-- No command writes a configuration register but CLEN, LCNT and DEC_END (10_state.md R55, R56, R60), and none writes CTRL,
PEND, LASTCMD, BUSY, DONE, HAZ, BUSERR or IMG (10_state.md R45 to R54, R57 to R59, R61 to R65, R72; 43_control.md R252). -/
def Obligations.CommandsKeepConfiguration : Prop :=
  ∀ (i : Instr) (s t : State), exec i s = .next t →
    t.regs = { s.regs with
      status := t.regs.status, errCode := t.regs.errCode, errCmd := t.regs.errCmd
      clen := t.regs.clen, lcnt := t.regs.lcnt, decEnd := t.regs.decEnd
      gridS := t.regs.gridS, gridL := t.regs.gridL, coefNRad := t.regs.coefNRad, coefNAng := t.regs.coefNAng
      invLen := t.regs.invLen, convCount := t.regs.convCount } ∧
    t.regs.status.busy = s.regs.status.busy ∧ t.regs.status.done = s.regs.status.done ∧
    t.regs.status.haz = s.regs.status.haz ∧ t.regs.status.busErr = s.regs.status.busErr ∧
    keepsMem s t .img ∧ KeepsPort s t

/-- Which commands write which memories: NEW and CONV only SAMPLE and GRID_LOAD, FULL only SAMPLE, a coefficient file only
FWD of its axis, WIDE and INV only INV, CBUF and LTAB only HENC_LINE and HENC_ALL, DBUF only HDEC (10_state.md R73 to
R81). -/
def Obligations.WritersOfEachMemory : Prop :=
  ∀ (i : Instr) (s t : State), exec i s = .next t →
    (i ≠ .sample → i ≠ .gridLoad → keepsMem s t .new ∧ keepsMem s t .conv) ∧
    (i ≠ .sample → keepsMem s t .full) ∧
    ((∀ bs, i ≠ .fwd .rad bs) → keepsMem s t .coefRad) ∧ ((∀ bs, i ≠ .fwd .ang bs) → keepsMem s t .coefAng) ∧
    ((∀ ax, i ≠ .inv ax) → keepsMem s t .wide ∧ keepsMem s t .inv) ∧
    ((∀ ax sr n, i ≠ .hencLine ax sr n) → (∀ ax sr, i ≠ .hencAll ax sr) → keepsMem s t .cbuf ∧ keepsMem s t .ltab) ∧
    (i ≠ .hdec → keepsMem s t .dbuf)
end

