-- ==== Sys2Proof/Laws/Config.lean ====
section
/-! SUPPORT. The bounds of the implementation's parameters (00_scope.md R5 to R11): all a proof can know of them. -/

namespace Sys2Proof

theorem Config.sMax_bounds : 1 ≤ Config.sMax ∧ Config.sMax ≤ 4096 := by
  have := Config.sSlack.isLt
  unfold Config.sMax
  omega

theorem Config.lMax_bounds : 1 ≤ Config.lMax ∧ Config.lMax ≤ 256 := by
  have := Config.lSlack.isLt
  unfold Config.lMax
  omega

theorem Config.wMax_bounds : 1 ≤ Config.wMax ∧ Config.wMax ≤ 2048 := by
  have := Config.wSlack.isLt
  unfold Config.wMax
  omega

theorem Config.hMax_bounds : 1 ≤ Config.hMax ∧ Config.hMax ≤ 2048 := by
  have := Config.hSlack.isLt
  unfold Config.hMax
  omega

theorem Config.nMax_bounds : 1 ≤ Config.nMax ∧ Config.nMax ≤ 4096 := by
  have := Config.nSlack.isLt
  unfold Config.nMax
  omega

theorem Config.radMax_le : Config.radMax ≤ 255 := by
  unfold Config.radMax
  omega

theorem Config.cbufBytes_bounds : 4 ≤ Config.cbufBytes ∧ Config.cbufBytes ≤ 2 ^ 24 ∧ Config.cbufBytes % 4 = 0 := by
  have := Config.cbufSlack.isLt
  unfold Config.cbufBytes
  omega

theorem Config.ltabMax_bounds : Config.sMax ≤ Config.ltabMax ∧ Config.lMax ≤ Config.ltabMax ∧ Config.ltabMax ≤ 4096 := by
  have hs := Config.sMax_bounds
  have hl := Config.lMax_bounds
  unfold Config.ltabMax
  omega

end Sys2Proof
end

