-- ==== Sys2Proof/Laws/Memory.lean ====
section
/-! SUPPORT. Laws of the memories' lists: what is read after writes, and that the canonical form is kept. -/

namespace Sys2Proof.Machine

variable {α : Type}

@[simp] theorem Memory.read?_nil (k : Nat) : Memory.read? ([] : Memory α) k = none := rfl

theorem Memory.read?_cons (c : Nat × α) (m : Memory α) (k : Nat) :
    Memory.read? (c :: m) k = if k = c.1 then some c.2 else Memory.read? m k := rfl

/-- Reading after one write: the value at its index, everything else as before. -/
theorem Memory.read?_write (m : Memory α) (k : Nat) (v : α) (j : Nat) :
    Memory.read? (Memory.write m k v) j = if j = k then some v else Memory.read? m j := by
  induction m with
  | nil => simp [Memory.write, Memory.read?_cons]
  | cons c m ih =>
    unfold Memory.write
    split
    · simp [Memory.read?_cons]
    · split
      · rename_i h1 h2
        subst h2
        by_cases hj : j = c.1 <;> simp [Memory.read?_cons, hj]
      · rename_i h1 h2
        rw [Memory.read?_cons, Memory.read?_cons, ih]
        by_cases hj : j = c.1
        · have : j ≠ k := by omega
          simp [hj, Ne.symm h2]
        · simp [hj]

@[simp] theorem Memory.read?_write_self (m : Memory α) (k : Nat) (v : α) :
    Memory.read? (Memory.write m k v) k = some v := by simp [Memory.read?_write]

theorem Memory.read?_write_of_ne (m : Memory α) {k j : Nat} (v : α) (h : j ≠ k) :
    Memory.read? (Memory.write m k v) j = Memory.read? m j := by simp [Memory.read?_write, h]

@[simp] theorem Memory.writeAll_nil (m : Memory α) : Memory.writeAll m [] = m := rfl

@[simp] theorem Memory.writeAll_cons (m : Memory α) (c : Nat × α) (cells : List (Nat × α)) :
    Memory.writeAll m (c :: cells) = Memory.writeAll (Memory.write m c.1 c.2) cells := rfl

theorem Memory.writeAll_append (m : Memory α) (a b : List (Nat × α)) :
    Memory.writeAll m (a ++ b) = Memory.writeAll (Memory.writeAll m a) b := by
  simp [Memory.writeAll, List.foldl_append]

/-- A cell none of the writes names reads as before. -/
theorem Memory.read?_writeAll_of_notMem (m : Memory α) (cells : List (Nat × α)) (k : Nat)
    (h : ∀ c ∈ cells, c.1 ≠ k) : Memory.read? (Memory.writeAll m cells) k = Memory.read? m k := by
  induction cells generalizing m with
  | nil => rfl
  | cons c cells ih =>
    rw [Memory.writeAll_cons, ih _ fun d hd => h d (List.mem_cons_of_mem _ hd),
      Memory.read?_write_of_ne]
    exact (h c List.mem_cons_self).symm

/-- A cell that some write names, when all writes that name it agree, reads as that write's value. -/
theorem Memory.read?_writeAll_of_mem (m : Memory α) (cells : List (Nat × α)) (k : Nat) (v : α)
    (h : (k, v) ∈ cells) (agree : ∀ w, (k, w) ∈ cells → w = v) :
    Memory.read? (Memory.writeAll m cells) k = some v := by
  induction cells generalizing m with
  | nil => cases h
  | cons c cells ih =>
    rw [Memory.writeAll_cons]
    by_cases hk : ∃ w, (k, w) ∈ cells
    · obtain ⟨w, hw⟩ := hk
      have hwv := agree w (List.mem_cons_of_mem _ hw)
      subst hwv
      exact ih _ hw fun u hu => agree u (List.mem_cons_of_mem _ hu)
    · have hc : c = (k, v) := by
        rcases List.mem_cons.1 h with h | h
        · exact h.symm
        · exact absurd ⟨v, h⟩ hk
      rw [Memory.read?_writeAll_of_notMem, hc, Memory.read?_write_self]
      rintro d hd rfl
      exact hk ⟨d.2, hd⟩

/-- Reading after a family of writes whose indices are different: the value of the one that names the cell. -/
theorem Memory.read?_writeAll_map {ι : Type} (m : Memory α) (is : List ι) (key : ι → Nat) (val : ι → α)
    (inj : ∀ i ∈ is, ∀ j ∈ is, key i = key j → i = j) (i : ι) (hi : i ∈ is) :
    Memory.read? (Memory.writeAll m (is.map fun i => (key i, val i))) (key i) = some (val i) := by
  apply Memory.read?_writeAll_of_mem
  · exact List.mem_map.2 ⟨i, hi, rfl⟩
  · intro w hw
    obtain ⟨j, hj, he⟩ := List.mem_map.1 hw
    have h1 : key j = key i := congrArg Prod.fst he
    have h2 : val j = w := congrArg Prod.snd he
    rw [← h2, inj j hj i hi h1]

theorem Memory.wf_cons_cons (c d : Nat × α) (m : Memory α) :
    Memory.wf (c :: d :: m) = true ↔ c.1 < d.1 ∧ Memory.wf (d :: m) = true := by
  simp [Memory.wf]

theorem Memory.wf_tail {c : Nat × α} {m : Memory α} (h : Memory.wf (c :: m) = true) : Memory.wf m = true := by
  cases m with
  | nil => rfl
  | cons d m => exact ((Memory.wf_cons_cons c d m).1 h).2

/-- A write keeps the canonical form. -/
theorem Memory.write_wf (m : Memory α) (k : Nat) (v : α) (h : Memory.wf m = true) :
    Memory.wf (Memory.write m k v) = true := by
  induction m with
  | nil => rfl
  | cons c m ih =>
    unfold Memory.write
    split
    · rename_i hlt
      exact (Memory.wf_cons_cons _ _ _).2 ⟨hlt, h⟩
    · split
      · rename_i _ heq
        subst heq
        cases m with
        | nil => rfl
        | cons d m => exact (Memory.wf_cons_cons _ _ _).2 ((Memory.wf_cons_cons _ _ _).1 h)
      · rename_i h1 h2
        have ih := ih (Memory.wf_tail h)
        cases m with
        | nil => exact (Memory.wf_cons_cons _ _ _).2 ⟨by simp only []; omega, rfl⟩
        | cons d m =>
          have hcd := ((Memory.wf_cons_cons _ _ _).1 h).1
          unfold Memory.write at ih ⊢
          split
          · rename_i hk
            rw [if_pos hk] at ih
            exact (Memory.wf_cons_cons _ _ _).2 ⟨by simp only []; omega, ih⟩
          · rename_i hk
            rw [if_neg hk] at ih
            split
            · rename_i hk2
              rw [if_pos hk2] at ih
              exact (Memory.wf_cons_cons _ _ _).2 ⟨by simp only []; omega, ih⟩
            · rename_i hk2
              rw [if_neg hk2] at ih
              exact (Memory.wf_cons_cons _ _ _).2 ⟨hcd, ih⟩

/-- A list of writes keeps the canonical form. -/
theorem Memory.writeAll_wf (m : Memory α) (cells : List (Nat × α)) (h : Memory.wf m = true) :
    Memory.wf (Memory.writeAll m cells) = true := by
  induction cells generalizing m with
  | nil => exact h
  | cons c cells ih => exact ih _ (Memory.write_wf m c.1 c.2 h)

/-- The indices after a write: the old ones and the one written. -/
theorem Memory.write_all (m : Memory α) (k : Nat) (v : α) (p : Nat → Bool)
    (h : m.all (fun c => p c.1) = true) (hk : p k = true) :
    (Memory.write m k v).all (fun c => p c.1) = true := by
  induction m with
  | nil => simp [Memory.write, hk]
  | cons c m ih =>
    simp only [List.all_cons, Bool.and_eq_true] at h
    unfold Memory.write
    split
    · simp [hk, h.1, h.2]
    · split
      · simp [hk, h.2]
      · simp [h.1, ih h.2]

/-- The indices after a list of writes. -/
theorem Memory.writeAll_all (m : Memory α) (cells : List (Nat × α)) (p : Nat → Bool)
    (h : m.all (fun c => p c.1) = true) (hc : ∀ c ∈ cells, p c.1 = true) :
    (Memory.writeAll m cells).all (fun c => p c.1) = true := by
  induction cells generalizing m with
  | nil => exact h
  | cons c cells ih =>
    rw [Memory.writeAll_cons]
    exact ih _ (Memory.write_all m c.1 c.2 p h (hc c List.mem_cons_self))
      fun d hd => hc d (List.mem_cons_of_mem _ hd)

/-- Two canonical memories that read alike are equal. -/
theorem Memory.ext_of_wf (m n : Memory α) (hm : Memory.wf m = true) (hn : Memory.wf n = true)
    (h : ∀ k, Memory.read? m k = Memory.read? n k) : m = n := by
  have lower : ∀ (l : Memory α) (c : Nat × α), Memory.wf (c :: l) = true →
      ∀ k, k ≤ c.1 → Memory.read? l k = none := by
    intro l
    induction l with
    | nil => intros; rfl
    | cons d l ih =>
      intro c hw k hk
      have hcd := (Memory.wf_cons_cons _ _ _).1 hw
      rw [Memory.read?_cons, if_neg (by omega)]
      exact ih d hcd.2 k (by omega)
  induction m generalizing n with
  | nil =>
    cases n with
    | nil => rfl
    | cons d n => simpa [Memory.read?_cons] using h d.1
  | cons c m ih =>
    cases n with
    | nil => simpa [Memory.read?_cons] using h c.1
    | cons d n =>
      have hc := h c.1
      have hd := h d.1
      rw [Memory.read?_cons, Memory.read?_cons] at hc hd
      have heq : c.1 = d.1 := by
        rcases Nat.lt_trichotomy c.1 d.1 with hlt | heq | hgt
        · rw [if_pos rfl, if_neg (by omega), lower n d hn c.1 (by omega)] at hc
          cases hc
        · exact heq
        · rw [if_neg (by omega), if_pos rfl, lower m c hm d.1 (by omega)] at hd
          cases hd
      rw [if_pos rfl, if_pos heq] at hc
      have hcd : c = d := Prod.ext heq (Option.some.inj hc)
      subst hcd
      congr 1
      apply ih n (Memory.wf_tail hm) (Memory.wf_tail hn)
      intro k
      by_cases hk : k = c.1
      · subst hk
        rw [lower m c hm _ (le_refl _), lower n c hn _ (le_refl _)]
      · have := h k
        rwa [Memory.read?_cons, Memory.read?_cons, if_neg hk, if_neg hk] at this

end Sys2Proof.Machine
end

