-- ==== Sys2Proof/Laws/State.lean ====
section
/-! SUPPORT. What each update of the state does to each of its parts, so that no proof unfolds an update; and that a
read of a memory sees only that memory. -/

namespace Sys2Proof.Machine

@[simp] theorem raiseFor_regs (w : Word) (e : ErrCode) (s : State) : (raiseFor w e s).regs = { s.regs with
      errCode := if s.regs.status.err then s.regs.errCode else errCodeValue e
      errCmd := if s.regs.status.err then s.regs.errCmd else w
      status := { s.regs.status with err := true } } := rfl
@[simp] theorem raiseFor_mems (w : Word) (e : ErrCode) (s : State) : (raiseFor w e s).mems = s.mems := rfl
@[simp] theorem raiseFor_inputs (w : Word) (e : ErrCode) (s : State) : (raiseFor w e s).inputs = s.inputs := rfl
@[simp] theorem raiseFor_replies (w : Word) (e : ErrCode) (s : State) : (raiseFor w e s).replies = s.replies := rfl
@[simp] theorem raiseFor_resets (w : Word) (e : ErrCode) (s : State) : (raiseFor w e s).resets = s.resets := rfl

@[simp] theorem raise_regs (e : ErrCode) (s : State) : (raise e s).regs = { s.regs with
      errCode := if s.regs.status.err then s.regs.errCode else errCodeValue e
      errCmd := if s.regs.status.err then s.regs.errCmd else s.regs.pend
      status := { s.regs.status with err := true } } := rfl
@[simp] theorem raise_mems (e : ErrCode) (s : State) : (raise e s).mems = s.mems := rfl
@[simp] theorem raise_inputs (e : ErrCode) (s : State) : (raise e s).inputs = s.inputs := rfl
@[simp] theorem raise_replies (e : ErrCode) (s : State) : (raise e s).replies = s.replies := rfl
@[simp] theorem raise_resets (e : ErrCode) (s : State) : (raise e s).resets = s.resets := rfl

@[simp] theorem acknowledge_regs (v : Word) (s : State) : (acknowledge v s).regs = { s.regs with
      errCode := if v.getLsbD 2 then 0 else s.regs.errCode
      errCmd := if v.getLsbD 2 then 0 else s.regs.errCmd
      status := statusAfterW1C v s.regs.status } := rfl
@[simp] theorem acknowledge_mems (v : Word) (s : State) : (acknowledge v s).mems = s.mems := rfl
@[simp] theorem acknowledge_inputs (v : Word) (s : State) : (acknowledge v s).inputs = s.inputs := rfl
@[simp] theorem acknowledge_replies (v : Word) (s : State) : (acknowledge v s).replies = s.replies := rfl
@[simp] theorem acknowledge_resets (v : Word) (s : State) : (acknowledge v s).resets = s.resets := rfl

@[simp] theorem accept_regs (w : Word) (s : State) : (accept w s).regs = { s.regs with lastCmd := w, pend := w, status := { s.regs.status with busy := true, done := false } } := rfl
@[simp] theorem accept_mems (w : Word) (s : State) : (accept w s).mems = s.mems := rfl
@[simp] theorem accept_inputs (w : Word) (s : State) : (accept w s).inputs = s.inputs := rfl
@[simp] theorem accept_replies (w : Word) (s : State) : (accept w s).replies = s.replies := rfl
@[simp] theorem accept_resets (w : Word) (s : State) : (accept w s).resets = s.resets := rfl

@[simp] theorem complete_regs (s : State) : (complete s).regs = { s.regs with status := { s.regs.status with busy := false, done := true } } := rfl
@[simp] theorem complete_mems (s : State) : (complete s).mems = s.mems := rfl
@[simp] theorem complete_inputs (s : State) : (complete s).inputs = s.inputs := rfl
@[simp] theorem complete_replies (s : State) : (complete s).replies = s.replies := rfl
@[simp] theorem complete_resets (s : State) : (complete s).resets = s.resets := rfl

@[simp] theorem setBusErr_regs (s : State) : (setBusErr s).regs = { s.regs with status := { s.regs.status with busErr := true } } := rfl
@[simp] theorem setBusErr_mems (s : State) : (setBusErr s).mems = s.mems := rfl
@[simp] theorem setBusErr_inputs (s : State) : (setBusErr s).inputs = s.inputs := rfl
@[simp] theorem setBusErr_replies (s : State) : (setBusErr s).replies = s.replies := rfl
@[simp] theorem setBusErr_resets (s : State) : (setBusErr s).resets = s.resets := rfl

@[simp] theorem setHaz_regs (s : State) : (setHaz s).regs = { s.regs with status := { s.regs.status with haz := true } } := rfl
@[simp] theorem setHaz_mems (s : State) : (setHaz s).mems = s.mems := rfl
@[simp] theorem setHaz_inputs (s : State) : (setHaz s).inputs = s.inputs := rfl
@[simp] theorem setHaz_replies (s : State) : (setHaz s).replies = s.replies := rfl
@[simp] theorem setHaz_resets (s : State) : (setHaz s).resets = s.resets := rfl

@[simp] theorem softReset_regs (s : State) : (softReset s).regs = Regs.reset := rfl
@[simp] theorem softReset_mems (s : State) : (softReset s).mems = s.mems := rfl
@[simp] theorem softReset_inputs (s : State) : (softReset s).inputs = s.inputs := rfl
@[simp] theorem softReset_replies (s : State) : (softReset s).replies = s.replies := rfl
@[simp] theorem softReset_resets (s : State) : (softReset s).resets = s.resets := rfl

@[simp] theorem hardReset_regs (s : State) : (hardReset s).regs = Regs.reset := rfl
@[simp] theorem hardReset_mems (s : State) : (hardReset s).mems = Mems.unwritten := rfl
@[simp] theorem hardReset_inputs (s : State) : (hardReset s).inputs = s.inputs := rfl
@[simp] theorem hardReset_replies (s : State) : (hardReset s).replies = s.replies := rfl
@[simp] theorem hardReset_resets (s : State) : (hardReset s).resets = s.resets + 1 := rfl

@[simp] theorem mapRegs_regs (f : Regs → Regs) (s : State) : (mapRegs f s).regs = f s.regs := rfl
@[simp] theorem mapRegs_mems (f : Regs → Regs) (s : State) : (mapRegs f s).mems = s.mems := rfl
@[simp] theorem mapRegs_inputs (f : Regs → Regs) (s : State) : (mapRegs f s).inputs = s.inputs := rfl
@[simp] theorem mapRegs_replies (f : Regs → Regs) (s : State) : (mapRegs f s).replies = s.replies := rfl
@[simp] theorem mapRegs_resets (f : Regs → Regs) (s : State) : (mapRegs f s).resets = s.resets := rfl

@[simp] theorem latchGrid_regs (a b c : BitVec 16) (s : State) : (latchGrid a b c s).regs = { s.regs with gridS := a, gridL := b, convCount := c, status := statusNewGrid s.regs.status } := rfl
@[simp] theorem latchGrid_mems (a b c : BitVec 16) (s : State) : (latchGrid a b c s).mems = s.mems := rfl
@[simp] theorem latchGrid_inputs (a b c : BitVec 16) (s : State) : (latchGrid a b c s).inputs = s.inputs := rfl
@[simp] theorem latchGrid_replies (a b c : BitVec 16) (s : State) : (latchGrid a b c s).replies = s.replies := rfl
@[simp] theorem latchGrid_resets (a b c : BitVec 16) (s : State) : (latchGrid a b c s).resets = s.resets := rfl

@[simp] theorem clearStream_regs (s : State) : (clearStream s).regs = { s.regs with clen := 0, lcnt := 0 } := rfl
@[simp] theorem clearStream_mems (s : State) : (clearStream s).mems = s.mems := rfl
@[simp] theorem clearStream_inputs (s : State) : (clearStream s).inputs = s.inputs := rfl
@[simp] theorem clearStream_replies (s : State) : (clearStream s).replies = s.replies := rfl
@[simp] theorem clearStream_resets (s : State) : (clearStream s).resets = s.resets := rfl

@[simp] theorem latchFwd_regs (ax : Axis) (bs : Basis) (s : State) : (latchFwd ax bs s).regs = (match ax with
      | .rad => { s.regs with coefNRad := s.regs.ftN, status := statusAfterFwd .rad bs s.regs.status }
      | .ang => { s.regs with coefNAng := s.regs.ftN, status := statusAfterFwd .ang bs s.regs.status }) := by
  cases ax <;> rfl
@[simp] theorem latchFwd_mems (ax : Axis) (bs : Basis) (s : State) : (latchFwd ax bs s).mems = s.mems := rfl
@[simp] theorem latchFwd_inputs (ax : Axis) (bs : Basis) (s : State) : (latchFwd ax bs s).inputs = s.inputs := rfl
@[simp] theorem latchFwd_replies (ax : Axis) (bs : Basis) (s : State) : (latchFwd ax bs s).replies = s.replies := rfl
@[simp] theorem latchFwd_resets (ax : Axis) (bs : Basis) (s : State) : (latchFwd ax bs s).resets = s.resets := rfl

@[simp] theorem latchInv_regs (ax : Axis) (len : Nat) (s : State) : (latchInv ax len s).regs = { s.regs with invLen := BitVec.ofNat 16 len, status := statusAfterInv ax s.regs.status } := rfl
@[simp] theorem latchInv_mems (ax : Axis) (len : Nat) (s : State) : (latchInv ax len s).mems = s.mems := rfl
@[simp] theorem latchInv_inputs (ax : Axis) (len : Nat) (s : State) : (latchInv ax len s).inputs = s.inputs := rfl
@[simp] theorem latchInv_replies (ax : Axis) (len : Nat) (s : State) : (latchInv ax len s).replies = s.replies := rfl
@[simp] theorem latchInv_resets (ax : Axis) (len : Nat) (s : State) : (latchInv ax len s).resets = s.resets := rfl

@[simp] theorem latchAppend_regs (len M : Nat) (s : State) : (latchAppend len M s).regs = { s.regs with
      lcnt := s.regs.lcnt + 1
      clen := s.regs.clen + BitVec.ofNat 32 len
      status := { s.regs.status with trunc8 := s.regs.status.trunc8 || decide (256 < M) } } := rfl
@[simp] theorem latchAppend_mems (len M : Nat) (s : State) : (latchAppend len M s).mems = s.mems := rfl
@[simp] theorem latchAppend_inputs (len M : Nat) (s : State) : (latchAppend len M s).inputs = s.inputs := rfl
@[simp] theorem latchAppend_replies (len M : Nat) (s : State) : (latchAppend len M s).replies = s.replies := rfl
@[simp] theorem latchAppend_resets (len M : Nat) (s : State) : (latchAppend len M s).resets = s.resets := rfl

@[simp] theorem latchDec_regs (n : Nat) (s : State) : (latchDec n s).regs = { s.regs with decEnd := BitVec.ofNat 32 n } := rfl
@[simp] theorem latchDec_mems (n : Nat) (s : State) : (latchDec n s).mems = s.mems := rfl
@[simp] theorem latchDec_inputs (n : Nat) (s : State) : (latchDec n s).inputs = s.inputs := rfl
@[simp] theorem latchDec_replies (n : Nat) (s : State) : (latchDec n s).replies = s.replies := rfl
@[simp] theorem latchDec_resets (n : Nat) (s : State) : (latchDec n s).resets = s.resets := rfl

@[simp] theorem writeImg_regs (cells : List (Nat × Color)) (s : State) : (writeImg cells s).regs = s.regs := rfl
@[simp] theorem writeImg_mems (cells : List (Nat × Color)) (s : State) : (writeImg cells s).mems = { s.mems with img := Memory.writeAll s.mems.img cells } := rfl
@[simp] theorem writeImg_inputs (cells : List (Nat × Color)) (s : State) : (writeImg cells s).inputs = s.inputs := rfl
@[simp] theorem writeImg_replies (cells : List (Nat × Color)) (s : State) : (writeImg cells s).replies = s.replies := rfl
@[simp] theorem writeImg_resets (cells : List (Nat × Color)) (s : State) : (writeImg cells s).resets = s.resets := rfl

@[simp] theorem writeNew_regs (cells : List (Nat × Option Color)) (s : State) : (writeNew cells s).regs = s.regs := rfl
@[simp] theorem writeNew_mems (cells : List (Nat × Option Color)) (s : State) : (writeNew cells s).mems = { s.mems with new := Memory.writeAll s.mems.new cells } := rfl
@[simp] theorem writeNew_inputs (cells : List (Nat × Option Color)) (s : State) : (writeNew cells s).inputs = s.inputs := rfl
@[simp] theorem writeNew_replies (cells : List (Nat × Option Color)) (s : State) : (writeNew cells s).replies = s.replies := rfl
@[simp] theorem writeNew_resets (cells : List (Nat × Option Color)) (s : State) : (writeNew cells s).resets = s.resets := rfl

@[simp] theorem writeConv_regs (cells : List (Nat × Bool)) (s : State) : (writeConv cells s).regs = s.regs := rfl
@[simp] theorem writeConv_mems (cells : List (Nat × Bool)) (s : State) : (writeConv cells s).mems = { s.mems with conv := Memory.writeAll s.mems.conv cells } := rfl
@[simp] theorem writeConv_inputs (cells : List (Nat × Bool)) (s : State) : (writeConv cells s).inputs = s.inputs := rfl
@[simp] theorem writeConv_replies (cells : List (Nat × Bool)) (s : State) : (writeConv cells s).replies = s.replies := rfl
@[simp] theorem writeConv_resets (cells : List (Nat × Bool)) (s : State) : (writeConv cells s).resets = s.resets := rfl

@[simp] theorem writeFull_regs (cells : List (Nat × Color)) (s : State) : (writeFull cells s).regs = s.regs := rfl
@[simp] theorem writeFull_mems (cells : List (Nat × Color)) (s : State) : (writeFull cells s).mems = { s.mems with full := Memory.writeAll s.mems.full cells } := rfl
@[simp] theorem writeFull_inputs (cells : List (Nat × Color)) (s : State) : (writeFull cells s).inputs = s.inputs := rfl
@[simp] theorem writeFull_replies (cells : List (Nat × Color)) (s : State) : (writeFull cells s).replies = s.replies := rfl
@[simp] theorem writeFull_resets (cells : List (Nat × Color)) (s : State) : (writeFull cells s).resets = s.resets := rfl

@[simp] theorem writeWide_regs (cells : List (Nat × Word)) (s : State) : (writeWide cells s).regs = s.regs := rfl
@[simp] theorem writeWide_mems (cells : List (Nat × Word)) (s : State) : (writeWide cells s).mems = { s.mems with wide := Memory.writeAll s.mems.wide cells } := rfl
@[simp] theorem writeWide_inputs (cells : List (Nat × Word)) (s : State) : (writeWide cells s).inputs = s.inputs := rfl
@[simp] theorem writeWide_replies (cells : List (Nat × Word)) (s : State) : (writeWide cells s).replies = s.replies := rfl
@[simp] theorem writeWide_resets (cells : List (Nat × Word)) (s : State) : (writeWide cells s).resets = s.resets := rfl

@[simp] theorem writeInv_regs (cells : List (Nat × Color)) (s : State) : (writeInv cells s).regs = s.regs := rfl
@[simp] theorem writeInv_mems (cells : List (Nat × Color)) (s : State) : (writeInv cells s).mems = { s.mems with inv := Memory.writeAll s.mems.inv cells } := rfl
@[simp] theorem writeInv_inputs (cells : List (Nat × Color)) (s : State) : (writeInv cells s).inputs = s.inputs := rfl
@[simp] theorem writeInv_replies (cells : List (Nat × Color)) (s : State) : (writeInv cells s).replies = s.replies := rfl
@[simp] theorem writeInv_resets (cells : List (Nat × Color)) (s : State) : (writeInv cells s).resets = s.resets := rfl

@[simp] theorem writeCbuf_regs (cells : List (Nat × Byte)) (s : State) : (writeCbuf cells s).regs = s.regs := rfl
@[simp] theorem writeCbuf_mems (cells : List (Nat × Byte)) (s : State) : (writeCbuf cells s).mems = { s.mems with cbuf := Memory.writeAll s.mems.cbuf cells } := rfl
@[simp] theorem writeCbuf_inputs (cells : List (Nat × Byte)) (s : State) : (writeCbuf cells s).inputs = s.inputs := rfl
@[simp] theorem writeCbuf_replies (cells : List (Nat × Byte)) (s : State) : (writeCbuf cells s).replies = s.replies := rfl
@[simp] theorem writeCbuf_resets (cells : List (Nat × Byte)) (s : State) : (writeCbuf cells s).resets = s.resets := rfl

@[simp] theorem writeLtab_regs (cells : List (Nat × LtabEntry)) (s : State) : (writeLtab cells s).regs = s.regs := rfl
@[simp] theorem writeLtab_mems (cells : List (Nat × LtabEntry)) (s : State) : (writeLtab cells s).mems = { s.mems with ltab := Memory.writeAll s.mems.ltab cells } := rfl
@[simp] theorem writeLtab_inputs (cells : List (Nat × LtabEntry)) (s : State) : (writeLtab cells s).inputs = s.inputs := rfl
@[simp] theorem writeLtab_replies (cells : List (Nat × LtabEntry)) (s : State) : (writeLtab cells s).replies = s.replies := rfl
@[simp] theorem writeLtab_resets (cells : List (Nat × LtabEntry)) (s : State) : (writeLtab cells s).resets = s.resets := rfl

@[simp] theorem writeDbuf_regs (cells : List (Nat × Color)) (s : State) : (writeDbuf cells s).regs = s.regs := rfl
@[simp] theorem writeDbuf_mems (cells : List (Nat × Color)) (s : State) : (writeDbuf cells s).mems = { s.mems with dbuf := Memory.writeAll s.mems.dbuf cells } := rfl
@[simp] theorem writeDbuf_inputs (cells : List (Nat × Color)) (s : State) : (writeDbuf cells s).inputs = s.inputs := rfl
@[simp] theorem writeDbuf_replies (cells : List (Nat × Color)) (s : State) : (writeDbuf cells s).replies = s.replies := rfl
@[simp] theorem writeDbuf_resets (cells : List (Nat × Color)) (s : State) : (writeDbuf cells s).resets = s.resets := rfl

@[simp] theorem writeCoef_regs (ax : Axis) (cells : List (Nat × Coef)) (s : State) : (writeCoef ax cells s).regs = s.regs := by cases ax <;> rfl
@[simp] theorem writeCoef_inputs (ax : Axis) (cells : List (Nat × Coef)) (s : State) : (writeCoef ax cells s).inputs = s.inputs := by cases ax <;> rfl
@[simp] theorem writeCoef_replies (ax : Axis) (cells : List (Nat × Coef)) (s : State) : (writeCoef ax cells s).replies = s.replies := by cases ax <;> rfl
@[simp] theorem writeCoef_resets (ax : Axis) (cells : List (Nat × Coef)) (s : State) : (writeCoef ax cells s).resets = s.resets := by cases ax <;> rfl

@[simp] theorem writeCoef_rad_mems (cells : List (Nat × Coef)) (s : State) :
    (writeCoef .rad cells s).mems = { s.mems with coefRad := Memory.writeAll s.mems.coefRad cells } := rfl
@[simp] theorem writeCoef_ang_mems (cells : List (Nat × Coef)) (s : State) :
    (writeCoef .ang cells s).mems = { s.mems with coefAng := Memory.writeAll s.mems.coefAng cells } := rfl

variable {s t : State}

/-! A read sees only its own memory and the number of hardware resets. -/

theorem readImg_congr (hm : t.mems.img = s.mems.img) (hr : t.resets = s.resets) (y x : Nat) :
    readImg t y x = readImg s y x := by
  simp only [readImg, powerOnBits, hm, hr]

theorem readNew_congr (hm : t.mems.new = s.mems.new) (hr : t.resets = s.resets) (sec l : Nat) :
    readNew t sec l = readNew s sec l := by
  simp only [readNew, powerOnBits, hm, hr]

theorem readConv_congr (hm : t.mems.conv = s.mems.conv) (hr : t.resets = s.resets) (sec : Nat) :
    readConv t sec = readConv s sec := by
  simp only [readConv, powerOnBits, hm, hr]

theorem readFull_congr (hm : t.mems.full = s.mems.full) (hr : t.resets = s.resets) (sec l : Nat) :
    readFull t sec l = readFull s sec l := by
  simp only [readFull, powerOnBits, hm, hr]

theorem readWide_congr (hm : t.mems.wide = s.mems.wide) (hr : t.resets = s.resets) (sec l : Nat) (c : Channel) :
    readWide t sec l c = readWide s sec l c := by
  simp only [readWide, powerOnBits, hm, hr]

theorem readInv_congr (hm : t.mems.inv = s.mems.inv) (hr : t.resets = s.resets) (sec l : Nat) :
    readInv t sec l = readInv s sec l := by
  simp only [readInv, powerOnBits, hm, hr]

theorem readCbuf_congr (hm : t.mems.cbuf = s.mems.cbuf) (hr : t.resets = s.resets) (q : Nat) :
    readCbuf t q = readCbuf s q := by
  simp only [readCbuf, powerOnBits, hm, hr]

theorem readLtab_congr (hm : t.mems.ltab = s.mems.ltab) (hr : t.resets = s.resets) (e : Nat) :
    readLtab t e = readLtab s e := by
  simp only [readLtab, powerOnBits, hm, hr]

theorem readDbuf_congr (hm : t.mems.dbuf = s.mems.dbuf) (hr : t.resets = s.resets) (p : Nat) :
    readDbuf t p = readDbuf s p := by
  simp only [readDbuf, powerOnBits, hm, hr]

theorem readCoef_rad_congr (hm : t.mems.coefRad = s.mems.coefRad) (hr : t.resets = s.resets) (n k : Nat) (c : Channel) :
    readCoef t .rad n k c = readCoef s .rad n k c := by
  simp only [readCoef, powerOnBits, hm, hr]

theorem readCoef_ang_congr (hm : t.mems.coefAng = s.mems.coefAng) (hr : t.resets = s.resets) (n k : Nat) (c : Channel) :
    readCoef t .ang n k c = readCoef s .ang n k c := by
  simp only [readCoef, powerOnBits, hm, hr]

/-- A cell that the list holds reads as the list says. -/
theorem cellOr_of_some {α : Type} (f : BitVec 128 → α) (m : Memory α) (b : BitVec 128) (k : Nat) (v : α)
    (h : Memory.read? m k = some v) : cellOr f m b k = v := by simp [cellOr, h]

/-- A cell reads alike in two lists that hold the same at its index. -/
theorem cellOr_congr {α : Type} (f : BitVec 128 → α) (m n : Memory α) (b : BitVec 128) (k : Nat)
    (h : Memory.read? m k = Memory.read? n k) : cellOr f m b k = cellOr f n b k := by simp [cellOr, h]

end Sys2Proof.Machine
end

