-- ==== Sys2Proof/Laws/Exec.lean ====
section
/-! SUPPORT. What each shared operation and each meaning can do, said once: later proofs cite these and unfold nothing.
Every check is turned into the proposition its rule states. -/

namespace Sys2Proof.Machine

/-! ### The checks -/

theorem shapeOk_iff (s : State) : shapeOk s = true ↔ ShapeReady s := by
  simp [shapeOk, ShapeReady, and_assoc]

theorem sampleConfigOk_iff (s : State) : sampleConfigOk s = true ↔ SampleReady s := by
  simp [sampleConfigOk, SampleReady, shapeOk_iff, and_assoc]

theorem hdecOk_iff (s : State) : hdecOk s = true ↔ HdecReady s := by
  simp [hdecOk, HdecReady, and_assoc]

theorem checkFwd_eq_none_iff (s : State) :
    checkFwd s = none ↔ s.regs.status.gridValid = true ∧ 1 ≤ s.regs.ftN.toNat ∧ s.regs.ftN.toNat ≤ Config.nMax := by
  unfold checkFwd
  cases s.regs.status.gridValid
  · simp
  · simp
    omega

theorem checkHenc_eq_none_iff (sr : Source) (s : State) : checkHenc sr s = none ↔ SourceValid sr s := by
  cases sr <;> simp [checkHenc, SourceValid]

/-! ### Appending a line -/

/-- Everything `appendLine` can do (42_codec.md R221). -/
theorem appendLine_cases (x : List Color) (ax : Axis) (sr : Source) (n : Nat) (s : State) :
    (s.regs.lcnt.toNat = Config.ltabMax ∧ appendLine x ax sr n s = .error .ltabOverflow) ∨
    (s.regs.lcnt.toNat ≠ Config.ltabMax ∧ Config.cbufBytes < s.regs.clen.toNat + (encodeLine x).bytes.length ∧
      appendLine x ax sr n s = .error .cbufOverflow) ∨
    (s.regs.lcnt.toNat ≠ Config.ltabMax ∧ s.regs.clen.toNat + (encodeLine x).bytes.length ≤ Config.cbufBytes ∧
      appendLine x ax sr n s = .ok (latchAppend (encodeLine x).bytes.length x.length
        (writeLtab [(s.regs.lcnt.toNat, lineEntry s (encodeLine x) ax sr n)]
          (writeCbuf (bytesAt s.regs.clen.toNat (encodeLine x).bytes) s)))) := by
  unfold appendLine
  by_cases h : s.regs.lcnt.toNat = Config.ltabMax
  · simp [h]
  · by_cases h' : Config.cbufBytes < s.regs.clen.toNat + (encodeLine x).bytes.length
    · simp [h, h']
    · simp [h, h', Nat.le_of_not_lt h']

/-! ### The meanings -/

theorem execSample_cases (s : State) :
    (SampleReady s ∧ execSample s = .next (samplePass s)) ∨
    (¬ SampleReady s ∧ execSample s = .next (raise .badConfig s)) := by
  unfold execSample
  by_cases h : SampleReady s
  · simp [(sampleConfigOk_iff s).2 h, h]
  · simp [h, mt (sampleConfigOk_iff s).1 h]

theorem execGridLoad_cases (s : State) :
    (ShapeReady s ∧ execGridLoad s = .next (gridLoadPass s)) ∨
    (¬ ShapeReady s ∧ execGridLoad s = .next (raise .badConfig s)) := by
  unfold execGridLoad
  by_cases h : ShapeReady s
  · simp [(shapeOk_iff s).2 h, h]
  · simp [h, mt (shapeOk_iff s).1 h]

theorem execFwd_cases (ax : Axis) (bs : Basis) (s : State) :
    (checkFwd s = none ∧ execFwd ax bs s = .next (fwdPass ax bs s)) ∨
    ∃ e, checkFwd s = some e ∧ execFwd ax bs s = .next (raise e s) := by
  unfold execFwd
  cases h : checkFwd s <;> simp

theorem execInv_cases (ax : Axis) (s : State) :
    (coefValid ax s.regs.status = true ∧ execInv ax s = .next (invPass ax s)) ∨
    (coefValid ax s.regs.status = false ∧ execInv ax s = .next (raise .noCoef s)) := by
  unfold execInv
  cases h : coefValid ax s.regs.status <;> simp

/-- A HENC_LINE appends its line or raises an error on the state it found. -/
theorem execHencLine_cases (ax : Axis) (sr : Source) (n : Nat) (s : State) :
    (∃ t, SourceValid sr s ∧ n < lineCount s ax ∧ appendLine (codecLine s sr ax n) ax sr n s = .ok t ∧
      execHencLine ax sr n s = .next t) ∨
    ∃ e, execHencLine ax sr n s = .next (raise e s) := by
  unfold execHencLine
  cases h : checkHenc sr s with
  | some e => exact .inr ⟨e, rfl⟩
  | none =>
    have hv := (checkHenc_eq_none_iff sr s).1 h
    by_cases hn : lineCount s ax ≤ n
    · exact .inr ⟨.badIndex, by simp [hn]⟩
    · cases ha : appendLine (codecLine s sr ax n) ax sr n s with
      | error e => exact .inr ⟨e, by simp [hn]⟩
      | ok t => exact .inl ⟨t, hv, by omega, rfl, by simp [hn]⟩

theorem execHencAll_cases (ax : Axis) (sr : Source) (s : State) :
    (SourceValid sr s ∧ execHencAll ax sr s = .next (hencLoop ax sr (List.range (lineCount s ax)) (clearStream s))) ∨
    ∃ e, checkHenc sr s = some e ∧ execHencAll ax sr s = .next (raise e s) := by
  unfold execHencAll
  cases h : checkHenc sr s with
  | some e => exact .inr ⟨e, rfl, rfl⟩
  | none => exact .inl ⟨(checkHenc_eq_none_iff sr s).1 h, rfl⟩

theorem execHdec_cases (s : State) :
    (¬ HdecReady s ∧ execHdec s = .next (raise .badOperand s)) ∨
    (∃ e, HdecReady s ∧
      readLine (decByte s) s.regs.decOff.toNat s.regs.decRuns.toNat s.regs.decLen.toNat = .error e ∧
      execHdec s = .next (raise e s)) ∨
    ∃ d, HdecReady s ∧
      readLine (decByte s) s.regs.decOff.toNat s.regs.decRuns.toNat s.regs.decLen.toNat = .ok d ∧
      execHdec s = .next (latchDec d.decEnd (writeDbuf d.cells s)) := by
  unfold execHdec
  by_cases h : HdecReady s
  · have hk := (hdecOk_iff s).2 h
    cases hr : readLine (decByte s) s.regs.decOff.toNat s.regs.decRuns.toNat s.regs.decLen.toNat with
    | error e => exact .inr (.inl ⟨e, h, rfl, by simp [hk]⟩)
    | ok d => exact .inr (.inr ⟨d, h, rfl, by simp [hk]⟩)
  · have hk : hdecOk s = false := by simpa using mt (hdecOk_iff s).1 h
    exact .inl ⟨h, by simp [hk]⟩

/-- Whatever holds of the start, of a raise of an error and of every append, holds after the loop of HENC_ALL. -/
theorem hencLoop_induction (P : State → Prop) (ax : Axis) (sr : Source) (ns : List Nat) (s : State) (hs : P s)
    (append : ∀ (n : Nat) (s t : State), n ∈ ns → P s → appendLine (codecLine s sr ax n) ax sr n s = .ok t → P t)
    (fail : ∀ (e : ErrCode) (s : State), P s → P (raise e s))
    (clear : ∀ s : State, P s → P (clearStream s)) : P (hencLoop ax sr ns s) := by
  induction ns generalizing s with
  | nil => exact hs
  | cons n ns ih =>
    unfold hencLoop
    cases h : appendLine (codecLine s sr ax n) ax sr n s with
    | ok t =>
      exact ih t (append n s t List.mem_cons_self hs h)
        (fun m a b hm => append m a b (List.mem_cons_of_mem n hm))
    | error e =>
      cases e
      case cbufOverflow => exact fail _ _ (clear _ hs)
      all_goals exact fail _ _ hs

/-! ### The Engine and the port -/

/-- Everything an Engine step can do (43_control.md R252, R253). -/
theorem engineStep_cases (s : State) :
    (s.regs.status.busy = false ∧ engineStep s = .next s) ∨
    (∃ i, s.regs.status.busy = true ∧ decode s.regs.pend = .ok i ∧ engineStep s = completed (exec i s)) ∨
    ∃ r, s.regs.status.busy = true ∧ decode s.regs.pend = .error r ∧
      engineStep s = .next (complete (raise .illegalCmd s)) := by
  unfold engineStep performPending
  cases hb : s.regs.status.busy
  · simp
  · cases hd : decode s.regs.pend <;> simp [completed]

/-- Everything a host read can do (20_memory.md R91, R110, R112). -/
theorem hostRead_cases (off size : Nat) (s : State) :
    (targetOf off size = none ∧ hostRead off size s = (0, setBusErr s)) ∨
    (∃ t, targetOf off size = some t ∧ s.regs.status.busy = true ∧ readRefusedBusy t = true ∧
      hostRead off size s = (0, setHaz s)) ∨
    ∃ t, targetOf off size = some t ∧ (s.regs.status.busy = false ∨ readRefusedBusy t = false) ∧
      hostRead off size s = (targetRead s t, s) := by
  unfold hostRead
  cases h : targetOf off size with
  | none => simp
  | some t => cases hb : s.regs.status.busy <;> cases hr : readRefusedBusy t <;> simp [hr]

/-- Everything a host write can do (20_memory.md R91, R95, R110, R111). -/
theorem hostWrite_cases (off size : Nat) (v : Word) (s : State) :
    ((∀ t, targetOf off size = some t → targetWritable t = false) ∧ hostWrite off size v s = setBusErr s) ∨
    (∃ t, targetOf off size = some t ∧ targetWritable t = true ∧ s.regs.status.busy = true ∧
      writeRefusedBusy t = true ∧ hostWrite off size v s = setHaz s) ∨
    ∃ t, targetOf off size = some t ∧ targetWritable t = true ∧
      (s.regs.status.busy = false ∨ writeRefusedBusy t = false) ∧ hostWrite off size v s = targetWrite v t s := by
  unfold hostWrite
  cases h : targetOf off size with
  | none => simp
  | some t =>
    cases hw : targetWritable t <;> cases hb : s.regs.status.busy <;> cases hr : writeRefusedBusy t <;> simp [hw, hr]

/-- Everything a step can do (20_memory.md R116). -/
theorem step_cases (s : State) :
    (s.inputs = [] ∧ step s = engineStep s) ∨
    (∃ rest, s.inputs = .engine :: rest ∧ step s = engineStep { s with inputs := rest }) ∨
    (∃ rest, s.inputs = .hardReset :: rest ∧ step s = .next (hardReset { s with inputs := rest })) ∨
    ∃ rest t, s.inputs = .host t :: rest ∧ step s = .next (hostStep t { s with inputs := rest }) := by
  unfold step nextStep
  cases h : s.inputs with
  | nil => simp
  | cons i rest => cases i <;> simp [inputStep]

end Sys2Proof.Machine
end

