-- ==== Sys2Proof/Laws/PerInstr.lean ====
section
/-! SUPPORT. A statement about every command as syntax, one lemma for each constructor: the word of a well-formed command
has the shape of its own row of 30_encoding.md R133, the row its opcode field selects. -/

namespace Sys2Proof

/-- The word of a well-formed command fits the row of its opcode. -/
def Laws.EncodeFitsRow.Statement (i : Instr) : Prop :=
  WellFormed i → ∃ r, opcodeRows[opField (encode i)]? = some r ∧ r.fits (encode i) = true

theorem Laws.EncodeFitsRow.nop : Laws.EncodeFitsRow.Statement .nop := fun _ => ⟨_, rfl, by decide⟩
theorem Laws.EncodeFitsRow.sample : Laws.EncodeFitsRow.Statement .sample := fun _ => ⟨_, rfl, by decide⟩
theorem Laws.EncodeFitsRow.fwd (ax : Axis) (bs : Basis) : Laws.EncodeFitsRow.Statement (.fwd ax bs) := by
  cases ax <;> cases bs <;> exact fun _ => ⟨_, rfl, by decide⟩
theorem Laws.EncodeFitsRow.inv (ax : Axis) : Laws.EncodeFitsRow.Statement (.inv ax) := by
  cases ax <;> exact fun _ => ⟨_, rfl, by decide⟩
theorem Laws.EncodeFitsRow.hencLine (ax : Axis) (sr : Source) (idx : Nat) :
    Laws.EncodeFitsRow.Statement (.hencLine ax sr idx) := by
  intro h
  have hi : idx < 2 ^ 12 := by simpa [WellFormed, Instr.wf, idxFits] using h
  have hz : ∀ j (hj : j < 32), 12 ≤ j → (BitVec.ofNat 32 idx)[j] = false := fun j hj hl => by
    rw [← BitVec.getLsbD_eq_getElem hj, BitVec.getLsbD_ofNat]
    simp [hj,
      Nat.testBit_lt_two_pow (lt_of_lt_of_le hi (Nat.pow_le_pow_right (by omega) hl))]
  have ho : opField (encode (.hencLine ax sr idx)) = 4 := by
    have : (encode (.hencLine ax sr idx)).extractLsb' 0 4 = 4 := by
      apply BitVec.eq_of_getLsbD_eq
      intro i hi
      cases ax <;> cases sr <;> interval_cases i <;> simp [encode, Axis.bit, Source.bit]
    rw [opField, this]
    rfl
  refine ⟨_, by rw [ho]; rfl, ?_⟩
  simp only [OpcodeRow.fits, decide_eq_true_eq]
  apply BitVec.eq_of_getLsbD_eq
  intro i hi
  cases ax <;> cases sr <;> interval_cases i <;> simp [encode, Axis.bit, Source.bit, hz]
theorem Laws.EncodeFitsRow.hencAll (ax : Axis) (sr : Source) : Laws.EncodeFitsRow.Statement (.hencAll ax sr) := by
  cases ax <;> cases sr <;> exact fun _ => ⟨_, rfl, by decide⟩
theorem Laws.EncodeFitsRow.hdec : Laws.EncodeFitsRow.Statement .hdec := fun _ => ⟨_, rfl, by decide⟩
theorem Laws.EncodeFitsRow.cbufClear : Laws.EncodeFitsRow.Statement .cbufClear := fun _ => ⟨_, rfl, by decide⟩
theorem Laws.EncodeFitsRow.gridLoad : Laws.EncodeFitsRow.Statement .gridLoad := fun _ => ⟨_, rfl, by decide⟩

end Sys2Proof
end

