-- ==== Sys2Proof/Tests/Slice0.lean ====
section
/-! SUPPORT. The model's own tests. `test_…` are checks on fixed values taken from the spec (95_test_vectors.md, named at
each test, or counted by hand from the rule named); `witness_…` show for each statement with hypotheses a concrete state
and operands that meet them together, at the edge of a clause's range where it has one. The implementation's parameters
are opaque, so the states below are of a 1 x 1 machine, which every implementation has. -/

open Sys2Proof Sys2Proof.Machine

namespace Sys2Proof.Tests

/-! ### Well-formedness: the one check and a term it refuses -/

theorem test_wf_refuses_index : (Instr.hencLine .rad .full 4096).wf = false := by decide
theorem test_wf_largest_index : (Instr.hencLine .ang .inv 4095).wf = true := by decide

/-! ### Decoding, from 30_encoding.md R133's patterns written out bit by bit (95_test_vectors.md V10, V11) -/

theorem test_decode_nop : decode 0b00000000000000000000000000000000 = .ok .nop := by decide
theorem test_decode_sample : decode 0b00000000000000000000000000000001 = .ok .sample := by decide
theorem test_decode_fwd : decode 0b00000000000000000000000000100010 = .ok (.fwd .rad .cosine) ∧
    decode 0b00000000000000000000000000010010 = .ok (.fwd .ang .fourier) := by decide
theorem test_decode_inv : decode 0b00000000000000000000000000010011 = .ok (.inv .ang) := by decide
theorem test_decode_hencLine : decode 0b00000000000000000000010101010100 = .ok (.hencLine .ang .inv 5) ∧
    decode 0b00000000000011111111111101000100 = .ok (.hencLine .rad .inv 4095) := by decide
theorem test_decode_hencAll : decode 0b00000000000000000000000001000101 = .ok (.hencAll .rad .inv) ∧
    decode 0b00000000000000000000000000010101 = .ok (.hencAll .ang .full) := by decide
theorem test_decode_hdec : decode 0b00000000000000000000000000000110 = .ok .hdec := by decide
theorem test_decode_cbufClear : decode 0b00000000000000000000000000000111 = .ok .cbufClear := by decide
theorem test_decode_gridLoad : decode 0b00000000000000000000000000001000 = .ok .gridLoad := by decide
theorem test_decode_refuses : ([0x00000010, 0x00000011, 0x00000042, 0x00000023, 0x00000084, 0x00100004, 0x00000105,
    0x00000106, 0x80000001] : List Word).map decode = List.replicate 9 (.error .unusedBits) := by decide
theorem test_decode_reserved : ([0x00000009, 0x0000000F] : List Word).map decode
    = List.replicate 2 (.error .reservedOpcode) := by decide
theorem test_table_word : decodeTableWord 32 0x00000554 = some (.hencLine .ang .inv 5) := by decide

/-! ### The assembler (30_encoding.md R136; V10) -/

theorem test_assemble : assemble "henc.ang.inv 5" = some 0x00000554 ∧ assemble "FWD.Ang.DCT" = some 0x00000032 ∧
    assemble "hencall.rad.inv" = some 0x00000045 := by decide
theorem test_assemble_refuses : assemble "henc.rad.full 4096" = none ∧ assemble "inv.dft" = none := by decide

/-! ### binary64 (00_scope.md R17; the values by hand) -/

theorem test_f64_add_ties_to_even :
    F64.add 0x4340000000000000 0x3FF0000000000000 = 0x4340000000000000 := by decide  -- 2^53 + 1
theorem test_f64_div : F64.div 0x3FF0000000000000 0x4008000000000000 = 0x3FD5555555555555 := by decide  -- 1 / 3
theorem test_f64_floor_trunc : F64.floor 0xBFE0000000000000 = -1 ∧ F64.trunc 0xBFE0000000000000 = 0 := by decide
theorem test_pow_exact : pow64 0x3FE0000000000000 0x4000000000000000 = 0x3FD0000000000000 := by decide  -- 0.5^2

/-! ### The states of the tests -/

/-- The registers of a 1 x 1 machine whose grid has been latched, FT_N = 1. -/
def tinyRegs : Regs := { Regs.reset with imgW := 1, imgH := 1, cfgS := 1, cfgL := 1, ftN := 1, gridS := 1, gridL := 1 }

/-- A 1 x 1 machine with a white pixel and one color in FULL, its validity flags given by `f`. -/
def tiny (f : Status → Status) : State :=
  { State.reset with
    regs := { tinyRegs with status := f Status.reset }
    mems := { Mems.unwritten with img := [(0, 0xFFFFFF)], full := [(0, 0x0A6496)] } }

/-- It with a valid grid. -/
def gridded : State := tiny fun f => { f with gridValid := true }

/-- It with lines of no samples, a shape no command latches. -/
def noLights : State := { gridded with regs := { gridded.regs with gridL := 0 } }

/-- It with the most lines a grid can have, of one sample each. -/
def tallGrid : State := { gridded with regs := { gridded.regs with gridS := BitVec.ofNat 16 Config.sMax } }

/-- It with LTAB full. -/
def tableFull : State := { gridded with regs := { gridded.regs with lcnt := BitVec.ofNat 16 Config.ltabMax } }

/-- It with CBUF full. -/
def bufferFull : State := { gridded with regs := { gridded.regs with clen := BitVec.ofNat 32 Config.cbufBytes } }

/-- It with coefficients for RAD, of block size 1. -/
def transformed : State :=
  { tiny fun f => { f with gridValid := true, coefValidRad := true } with
    regs := { tinyRegs with coefNRad := 1, status := { Status.reset with gridValid := true, coefValidRad := true } } }

/-- A block with the word w pending and the given inputs to come. -/
def pending (w : Word) (inputs : List Input) : State :=
  { State.reset with
    regs := { Regs.reset with pend := w, lastCmd := w, status := { Status.reset with busy := true } }, inputs := inputs }

/-- CBUF with the given bytes, CLEN at their end, and HDEC's operands. -/
def streamed (bytes : List Byte) (runs len : BitVec 16) : State :=
  { State.reset with
    regs := { Regs.reset with clen := BitVec.ofNat 32 bytes.length, decRuns := runs, decLen := len }
    mems := { Mems.unwritten with cbuf := bytes.zipIdx.map fun b => (b.2, b.1) } }

/-- The field of the next state, with a fallback that no test below reaches. -/
def after {α : Type} (o : Host.Outcome State Fault Refusal) (f : State → α) : Option α :=
  match o with
  | .next t => some (f t)
  | .fault _ => none
  | .refused _ => none

/-! ### One step of each command -/

theorem test_nop : exec .nop (pending 0 []) = .next (pending 0 []) := rfl

/-- V2, white. -/
theorem test_sample_white : sampleColor (tiny id) 0 0 = 0xFFB0F0 := by decide +kernel

/-- V1's first column: one color, then none; and its expansion. -/
theorem test_sample_capture : captureColumn [0xFF0000, 0xFF0000, 0x00FF00] = [some 0xFF0000, none, some 0x00FF00] ∧
    expandColumn [some 0xFF0000, none, some 0x00FF00] = [0xFF0000, 0xFF0000, 0x00FF00] := by decide

/-- R151: W = 0 after reset. -/
theorem test_sample_bad_config : after (exec .sample State.reset) (fun t => t.regs.errCode) = some 3 := by
  decide +kernel

/-- R170: FULL stays, the captured colors go. -/
theorem test_gridLoad : readFull (gridLoadPass (tiny id)) 0 0 = 0x0A6496 ∧
    readNew (gridLoadPass (tiny id)) 0 0 = none ∧
    (gridLoadPass (tiny id)).regs.status.gridValid = true := by decide +kernel

/-- V25: N = 1, x = [200] has re = 72.0; here the blue channel 0x96 = 150 has re = 22.0. -/
theorem test_fwd_single : readCoef (fwdPass .rad .fourier gridded) .rad 0 0 .blue
    = { re := 0x4036000000000000, im := F64.zero } := by decide +kernel

/-- V19: GRID_VALID = 0 and FT_N = 0 is NOT_SAMPLED. -/
theorem test_fwd_not_sampled : after (exec (.fwd .rad .fourier) State.reset) (fun t => t.regs.errCode) = some 4 := by
  decide +kernel

/-- V25's inverse, in the cosine basis: 22.0 gives 150 back. -/
theorem test_inv_single :
    readWide (invPass .ang (fwdPass .ang .cosine gridded)) 0 0 .blue = 150 := by decide +kernel

/-- R190's two modes on 1..3. -/
theorem test_band : keepIndex { State.reset with regs := { Regs.reset with filtStart := 1, filtEnd := 3 } } 3 = true ∧
    keepIndex { State.reset with regs := { Regs.reset with filtStart := 1, filtEnd := 3, filtInclusive := false } } 2
      = false := by decide

/-- V30. -/
theorem test_encode_line : encodeLine [0xFF0000, 0xFF0000, 0x00FF00, 0x0000FF] =
    { bytes := [0x7F, 0xC0, 0x00, 0x10, 0x0F, 0xF0, 0x08, 0x00, 0x07, 0xF8, 0x00, 0x00, 0x1A, 0x00, 0x02, 0x03]
      runs := 3, leaves := 3 } := by decide +kernel

/-- V34, the five-color row. -/
theorem test_encode_five : (encodeLine [1, 1, 1, 1, 2, 2, 3, 4, 5, 1]).bytes =
    [0x40, 0x00, 0x00, 0x48, 0x00, 0x00, 0x1C, 0x00, 0x00, 0x11, 0x00, 0x00, 0x05, 0x80, 0x00, 0x01, 0x00, 0x00, 0x00,
      0x00, 0x9E, 0x0E, 0x00, 0x04, 0x06, 0x07, 0x08, 0x09] := by decide +kernel

/-- R221: the entry and the first byte of an appended line (V32's shape: one color, five bytes). -/
theorem test_append : lineEntry gridded (encodeLine [0x0A6496]) .ang .full 0 =
    { offset := 0, length := 5, leaves := 1, runs := 1, sr := .full, ax := .ang, line := 0 } ∧
    bytesAt 7 [0xFF, 0x80] = [(7, 0xFF), (8, 0x80)] := by decide +kernel

/-- V38: reset, `henc.rad.full 0` and `hencall.rad.inv`. -/
theorem test_henc_refused : after (exec (.hencLine .rad .full 0) State.reset) (fun t => t.regs.errCode) = some 4 ∧
    after (exec (.hencAll .rad .inv) State.reset) (fun t => t.regs.errCode) = some 6 := by decide +kernel

/-- V31's decoding, on the bytes of V34's first row. -/
theorem test_hdec : after (exec .hdec (streamed [0x7F, 0xC0, 0x00, 0x20, 0x1F, 0xE0, 0x00, 0x00, 0x02, 0x00, 0x01] 2 4))
    (fun t => ([0, 1, 2, 3].map (readDbuf t), t.regs.decEnd))
    = some ([0xFF0000, 0x00FF00, 0x00FF00, 0x00FF00], 11) := by decide +kernel

/-- V36: a zero first bit with DEC_LEN = 1. -/
theorem test_hdec_bad_tree : after (exec .hdec (streamed [0, 0, 0, 0] 1 1)) (fun t => t.regs.errCode) = some 12 := by
  decide +kernel

/-- V39. -/
theorem test_cbufClear : after (exec .cbufClear (streamed [1, 2, 3] 1 1)) (fun t => (t.regs.clen, readCbuf t 1))
    = some (0, 2) := by decide +kernel

/-- V12: the handshake of NOP. -/
theorem test_handshake : after (step { State.reset with inputs := [.host (.write 0x02C 4 0)] })
      (fun t => statusWord t.regs.status) = some 0x00000001 ∧
    after (step (pending 0 [])) (fun t => statusWord t.regs.status) = some 0x00000002 := by decide +kernel

/-- R135: a word placed after reset is the first command performed; 0x10 is illegal. -/
theorem test_withFetchWord : after (step (State.reset.withFetchWord 32 0x00000010)) (fun t => (t.regs.errCode, t.regs.errCmd))
    = some (1, 0x00000010) := by decide +kernel

/-- V16, steps 1, 2 and 4: the interrupt rises with the error and falls with the acknowledgement. -/
theorem test_irq : irq (raise .notSampled (writeCtrl 2 State.reset)) = true ∧
    irq (acknowledge 4 (raise .notSampled (writeCtrl 2 State.reset))) = false := by decide

/-- The memories after reset are canonical. -/
theorem test_reset_memories_wf : (Memory.wf State.reset.mems.img && Memory.wf State.reset.mems.new &&
    Memory.wf State.reset.mems.conv && Memory.wf State.reset.mems.full && Memory.wf State.reset.mems.coefRad &&
    Memory.wf State.reset.mems.coefAng && Memory.wf State.reset.mems.wide && Memory.wf State.reset.mems.inv &&
    Memory.wf State.reset.mems.cbuf && Memory.wf State.reset.mems.ltab && Memory.wf State.reset.mems.dbuf) = true := by
  decide

/-! ### Witnesses: command words, issue and errors -/

theorem witness_DecodeOfEncode : WellFormed (.hencLine .ang .inv 4095) ∧ WellFormed (.hencLine .rad .full 0) := by decide

theorem witness_EncodeOfDecode : decode 0x000FFF54 = .ok (.hencLine .ang .inv 4095) := by decide

theorem witness_StepRunsDecodedCommand :
    (EngineTurn (pending 7 []) (pending 7 []) ∧ EngineTurn (pending 7 [.engine]) (pending 7 [])) ∧
    (pending 7 []).regs.status.busy = true ∧ decode (pending 7 []).regs.pend = .ok .cbufClear ∧
    exec .cbufClear (pending 7 []) = .next (clearStream (pending 7 [])) :=
  ⟨⟨.inl ⟨rfl, rfl⟩, .inr ⟨[], rfl, rfl⟩⟩, rfl, by decide, rfl⟩

theorem witness_IllegalWordRaises :
    EngineTurn (pending 0x10 [.engine]) (pending 0x10 []) ∧ (pending 0x10 []).regs.status.busy = true ∧
    (∀ i, decode (pending 0x10 []).regs.pend ≠ .ok i) ∧ (∀ i, decode (pending 9 []).regs.pend ≠ .ok i) := by
  refine ⟨.inr ⟨[], rfl, rfl⟩, rfl, fun i => ?_, fun i => ?_⟩
  · have : decode (pending 0x10 []).regs.pend = .error .unusedBits := by decide
    rw [this]
    simp
  · have : decode (pending 9 []).regs.pend = .error .reservedOpcode := by decide
    rw [this]
    simp

theorem witness_PendingCommandEnds : (pending 1 [.host (.read 0 4)]).regs.status.busy = true := rfl

theorem witness_CmdWriteAccepted : State.reset.regs.status.busy = false := rfl

theorem witness_CmdWriteRejectedWhileBusy : (pending 1 []).regs.status.busy = true := rfl

theorem witness_FirstErrorIsKept : (raise .noInv State.reset).regs.status.err = true ∧
    State.reset.regs.status.err = false ∧ (0x4 : Word).getLsbD 2 = true := by decide

theorem witness_ErrorChangesNothingElse : (∀ ax sr, Instr.inv .rad ≠ .hencAll ax sr) ∧
    exec (.inv .rad) State.reset = .next (raise .noCoef State.reset) := ⟨by simp, rfl⟩

theorem witness_RunPerformsCommand : WellFormed .cbufClear ∧ State.reset.regs.status.busy = false ∧
    ({ State.reset with inputs := runCommand .cbufClear 2 } : State).inputs = runCommand .cbufClear 2 ++ [] := by decide

theorem witness_ResetEvents : (0x8 : Word).getLsbD 3 = true ∧
    (pending 1 [.hardReset]).inputs = .hardReset :: [] := by decide

/-! ### Witnesses: the host port -/

theorem witness_IllegalAccessSetsBusErr : (2 ≠ 4 ∧ 0x026 % 4 ≠ 0) ∧
    (mapOffset 0x018 = none ∧ mapOffset 0x0A8 = none ∧ mapOffset 0x0C8 = none ∧ mapOffset 0x20400 = none ∧
      mapOffset 0x400000C = none ∧ mapOffset 0x11000000 = none) ∧
    mapOffset 0x0C4 = some (.reg .convCount) ∧ targetWritable (.reg .convCount) = false ∧
    mapOffset 0x3400000 = some (.ring 0 0) ∧ targetWritable (.ring 0 0) = false := by
  refine ⟨by decide, by decide +kernel, by decide, rfl, ?_, rfl⟩
  have hs := Config.sMax_bounds.1
  have hl := Config.lMax_bounds.1
  have : mapOffset 0x3400000 = within (cellInBounds 0 0) (.ring 0 0) := rfl
  simp [this, within, cellInBounds]
  omega

theorem witness_WindowsRefusedWhileBusy : (pending 1 []).regs.status.busy = true ∧
    mapOffset 0x203FC = some (.dbuf 255) ∧ (∀ r, Target.dbuf 255 ≠ .reg r) ∧
    mapOffset 0x1000000 = some (.cbuf 0) ∧ (∀ r, Target.cbuf 0 ≠ .reg r) ∧ targetWritable (.cbuf 0) = true := by
  refine ⟨rfl, by decide, by simp, ?_, by simp, rfl⟩
  have hc := Config.cbufBytes_bounds.1
  have : mapOffset 0x1000000 = within (decide (3 < Config.cbufBytes)) (.cbuf 0) := rfl
  simp [this, within]
  omega

theorem witness_RegistersWhileBusy : (pending 1 []).regs.status.busy = true ∧ (0x8 : Word).getLsbD 3 = true ∧
    (0xFFFFFFF7 : Word).getLsbD 3 = false ∧
    Reg.clen ∈ Reg.clen :: configFields.map Prod.fst ∧ Reg.routHi ∈ Reg.clen :: configFields.map Prod.fst := by decide

theorem witness_AddressMapIsExact : 0x203FC % 4 = 0 ∧ mapOffset 0x203FC = some (.dbuf 255) ∧ mapOffset 0x20400 = none ∧
    mapOffset 0x0A4 = some (.reg .routHi) := by decide

theorem witness_ImageAndGridWindows : State.reset.regs.status.busy = false ∧ 0 < Config.wMax ∧ 0 < Config.hMax ∧
    Config.wMax - 1 < Config.wMax ∧ Config.hMax - 1 < Config.hMax ∧ 0 < Config.sMax ∧ 0 < Config.lMax ∧
    Config.sMax - 1 < Config.sMax ∧ Config.lMax - 1 < Config.lMax := by
  have h1 := Config.wMax_bounds
  have h2 := Config.hMax_bounds
  have h3 := Config.sMax_bounds
  have h4 := Config.lMax_bounds
  refine ⟨rfl, ?_⟩
  omega

theorem witness_CbufWindow : State.reset.regs.status.busy = false ∧ 4 * 0 + 3 < Config.cbufBytes ∧
    4 * (Config.cbufBytes / 4 - 1) + 3 < Config.cbufBytes := by
  have h := Config.cbufBytes_bounds
  refine ⟨rfl, ?_⟩
  omega

theorem witness_ResultWindows : State.reset.regs.status.busy = false ∧
    ((Config.sMax + 31) / 32 - 1 < (Config.sMax + 31) / 32 ∧ 31 < 32) ∧
    (Config.sMax - 1 < Config.sMax ∧ Config.lMax - 1 < Config.lMax) ∧ Config.ltabMax - 1 < Config.ltabMax ∧ 255 < 256 := by
  have h3 := Config.sMax_bounds
  have h4 := Config.lMax_bounds
  have h5 := Config.ltabMax_bounds
  refine ⟨rfl, ?_⟩
  omega

theorem witness_ClenIsLegalised : State.reset.regs.status.busy = false := rfl

theorem witness_F64RegistersAreHalves : State.reset.regs.status.busy = false ∧
    ({ State.reset with inputs := wr64 .cx 0x4021000000000000 } : State).inputs = wr64 .cx 0x4021000000000000 ++ [] := by
  decide

theorem witness_ConfigurationWritesStore : State.reset.regs.status.busy = false ∧
    (Reg.imgW, 0xFFFF) ∈ configFields ∧ (Reg.filtMode, 1) ∈ configFields ∧ (Reg.routHi, 0xFFFFFFFF) ∈ configFields := by
  decide

theorem witness_ClrstatClears :
    ({ State.reset with inputs := clrstat ++ [.engine] } : State).inputs = clrstat ++ [.engine] := rfl

/-! ### Witnesses: SAMPLE, GRID_LOAD, FWD, INV -/

theorem tiny_shapeReady (f : Status → Status) : ShapeReady (tiny f) :=
  ⟨le_refl _, Config.sMax_bounds.1, le_refl _, Config.lMax_bounds.1⟩

theorem tiny_sampleReady (f : Status → Status) : SampleReady (tiny f) :=
  ⟨⟨le_refl _, Config.wMax_bounds.1⟩, ⟨le_refl _, Config.hMax_bounds.1⟩, tiny_shapeReady f, Nat.zero_le _,
    by show F64.posFinite 0x4012000000000000 = true; decide, by show F64.isFinite 0 = true; decide,
    by show F64.isFinite 0 = true; decide, by show F64.isFinite 0 = true; decide,
    by show F64.isFinite 0 = true; decide⟩

theorem tiny_exec_sample (f : Status → Status) : exec .sample (tiny f) = .next (samplePass (tiny f)) := by
  rcases execSample_cases (tiny f) with h | h
  · exact h.2
  · exact absurd (tiny_sampleReady f) h.1

theorem gridded_shapeInBounds : ShapeInBounds gridded := ⟨Config.sMax_bounds.1, Config.lMax_bounds.1⟩

theorem transformed_shapeInBounds : ShapeInBounds transformed := ⟨Config.sMax_bounds.1, Config.lMax_bounds.1⟩

theorem witness_SampleCompletes : SampleReady (tiny id) ∧ 0 < (tiny id).regs.cfgS.toNat ∧ 0 < (tiny id).regs.cfgL.toNat ∧
    255 < 256 ∧ (tiny id).regs.cfgS.toNat ≤ 1 := ⟨tiny_sampleReady id, by decide, by decide, by decide, by decide⟩

theorem witness_ExpansionCarriesForward : 0 < [none, some (1 : Color)].length ∧ 1 < [none, some (1 : Color)].length := by
  decide

theorem witness_NeighbourhoodSums : 1 ≤ (tiny id).regs.imgW.toNat ∧ 1 ≤ (tiny id).regs.imgH.toNat := by decide

/-- White; for black the pixel is 0. -/
theorem witness_WhiteAndBlackImages : SampleReady (tiny id) ∧ exec .sample (tiny id) = .next (samplePass (tiny id)) ∧
    (0 < (tiny id).regs.cfgS.toNat ∧ 0 < (tiny id).regs.cfgL.toNat) ∧
    (∀ y x, y < (tiny id).regs.imgH.toNat → x < (tiny id).regs.imgW.toNat → readImg (tiny id) y x = 0xFFFFFF) ∧
    (∀ y x, y < (tiny id).regs.imgH.toNat → x < (tiny id).regs.imgW.toNat →
      readImg { tiny id with mems := { Mems.unwritten with img := [(0, 0)] } } y x = 0x000000) := by
  refine ⟨tiny_sampleReady id, tiny_exec_sample id, by decide, fun y x hy hx => ?_, fun y x hy hx => ?_⟩
  all_goals
    have hy0 : y = 0 := by change y < 1 at hy; omega
    have hx0 : x = 0 := by change x < 1 at hx; omega
    subst hy0 hx0
    rfl

/-- Two states that agree on the image and the configuration and differ in their flags. -/
theorem witness_SampleIsDeterministic :
    let s := gridded
    let s' := tiny id
    SampleReady s ∧
    (s'.regs.imgW = s.regs.imgW ∧ s'.regs.imgH = s.regs.imgH ∧ s'.regs.cfgS = s.regs.cfgS ∧ s'.regs.cfgL = s.regs.cfgL ∧
      s'.regs.sampleRad = s.regs.sampleRad ∧ s'.regs.rMax = s.regs.rMax ∧ s'.regs.gMax = s.regs.gMax ∧
      s'.regs.bMax = s.regs.bMax ∧ s'.regs.gamma = s.regs.gamma ∧ s'.regs.cx = s.regs.cx ∧ s'.regs.cy = s.regs.cy ∧
      s'.regs.rin = s.regs.rin ∧ s'.regs.rout = s.regs.rout) ∧
    (∀ y x, y < s.regs.imgH.toNat → x < s.regs.imgW.toNat → readImg s' y x = readImg s y x) ∧
    exec .sample s = .next (samplePass s) ∧ exec .sample s' = .next (samplePass s') ∧ s'.regs.status ≠ s.regs.status :=
  ⟨tiny_sampleReady _, ⟨rfl, rfl, rfl, rfl, rfl, rfl, rfl, rfl, rfl, rfl, rfl, rfl, rfl⟩, fun _ _ _ _ => rfl,
    tiny_exec_sample _, tiny_exec_sample _, by decide⟩

theorem witness_GridLoadCompletes : ShapeReady (tiny id) ∧ 0 < (tiny id).regs.cfgS.toNat ∧ 255 < 256 ∧
    (tiny id).regs.cfgL.toNat ≤ 255 := ⟨tiny_shapeReady id, by decide, by decide, by decide⟩

theorem witness_SampleAndTransformRefusals : ¬ SampleReady State.reset ∧ ¬ ShapeReady State.reset ∧
    State.reset.regs.status.gridValid = false ∧
    ({ gridded with regs := { gridded.regs with ftN := 0 } } : State).regs.status.gridValid = true ∧
    ¬ (1 ≤ ({ gridded with regs := { gridded.regs with ftN := 0 } } : State).regs.ftN.toNat) ∧
    coefValid .ang State.reset.regs.status = false :=
  ⟨fun h => absurd h.1.1 (by decide), fun h => absurd h.1 (by decide), rfl, rfl, by decide, rfl⟩

theorem witness_FwdCompletes : ShapeInBounds gridded ∧ gridded.regs.status.gridValid = true ∧
    1 ≤ gridded.regs.ftN.toNat ∧ gridded.regs.ftN.toNat ≤ Config.nMax ∧ 0 < lineCount gridded .ang ∧
    0 < lineLength gridded .ang / gridded.regs.ftN.toNat ∧ 0 < coefStride .ang ∧ lineCount gridded .ang ≤ 1 :=
  ⟨gridded_shapeInBounds, rfl, by decide, Config.nMax_bounds.1, by decide, by decide, by decide, by decide⟩

theorem witness_CoefficientsAreBounded : 1 < [(-128 : Int), 127].length ∧ [(-128 : Int), 127].length ≤ 4096 ∧
    ∀ u ∈ [(-128 : Int), 127], -128 ≤ u ∧ u ≤ 127 := by decide

theorem witness_InvCompletes : ShapeInBounds transformed ∧ coefValid .rad transformed.regs.status = true ∧
    0 < lineCount transformed .rad ∧ 0 < lineLength transformed .rad ∧
    0 < lineLength transformed .rad / coefN transformed .rad * coefN transformed .rad :=
  ⟨transformed_shapeInBounds, rfl, by decide, by decide, by decide⟩

/-- A dropped position: block size 2 on a line of one sample. -/
theorem witness_InvCompletes_dropped :
    let s : State := { transformed with regs := { transformed.regs with coefNRad := 2 } }
    ShapeInBounds s ∧ coefValid .rad s.regs.status = true ∧ 0 < lineCount s .rad ∧
    lineLength s .rad / coefN s .rad * coefN s .rad ≤ 0 ∧ 0 < lineLength s .rad :=
  ⟨transformed_shapeInBounds, rfl, by decide, by decide, by decide⟩

theorem witness_BandFilterKeeps : State.reset.regs.filtInclusive = true ∧
    ({ State.reset with regs := { Regs.reset with filtInclusive := false } } : State).regs.filtInclusive = false ∧
    65535 < 65536 ∧
    ({ State.reset with regs := { Regs.reset with filtStart := 1, filtEnd := 0 } } : State).regs.filtEnd.toNat
      < ({ State.reset with regs := { Regs.reset with filtStart := 1, filtEnd := 0 } } : State).regs.filtStart.toNat ∧
    ({ State.reset with regs := { Regs.reset with filtStart := 1, filtEnd := 1 } } : State).regs.filtEnd.toNat
      ≤ ({ State.reset with regs := { Regs.reset with filtStart := 1, filtEnd := 1 } } : State).regs.filtStart.toNat := by
  decide

/-- The empty band FS = 1 > FE = 0. -/
theorem witness_EmptyBandGives128 :
    let s : State := { transformed with regs := { transformed.regs with filtStart := 1, filtEnd := 0 } }
    ShapeInBounds s ∧ coefValid .rad s.regs.status = true ∧
    (∀ i, i < coefN s .rad → keepIndex s i = false) ∧ exec (.inv .rad) s = .next (invPass .rad s) ∧
    0 < lineCount s .rad ∧ 0 < lineLength s .rad / coefN s .rad * coefN s .rad := by
  refine ⟨transformed_shapeInBounds, rfl, fun i hi => ?_, rfl, by decide, by decide⟩
  have : i = 0 := by change i < 1 at hi; omega
  subst this
  decide

theorem witness_SingleSampleRoundTrip : ShapeInBounds gridded ∧ gridded.regs.status.gridValid = true ∧
    gridded.regs.ftN = 1 ∧ keepIndex gridded 0 = true ∧
    exec (.fwd .ang .cosine) gridded = .next (fwdPass .ang .cosine gridded) ∧
    exec (.inv .ang) (fwdPass .ang .cosine gridded) = .next (invPass .ang (fwdPass .ang .cosine gridded)) ∧
    0 < gridded.regs.gridS.toNat ∧ 0 < gridded.regs.gridL.toNat := by
  refine ⟨gridded_shapeInBounds, rfl, rfl, by decide, ?_, rfl, by decide, by decide⟩
  have hc : checkFwd gridded = none :=
    (checkFwd_eq_none_iff gridded).2 ⟨rfl, by decide, Config.nMax_bounds.1⟩
  show execFwd .ang .cosine gridded = _
  unfold execFwd
  rw [hc]

/-- y = -128.5 at v = 0 and y = -127.5 at v = 1 and v = 0: the ends of the half. -/
theorem witness_ReconstructionTruncates :
    F64.isFinite 0xC060100000000000 = true ∧ |F64.toRat 0xC060100000000000 - ((0 : ℚ) - 128)| ≤ 1 / 2 ∧
    F64.isFinite 0xC05FE00000000000 = true ∧ |F64.toRat 0xC05FE00000000000 - ((1 : ℚ) - 128)| ≤ 1 / 2 ∧
    F64.toRat 0xC060000000000000 = (0 : ℚ) - 128 := by
  have ha : F64.toRat 0xC060100000000000 = -(257 / 2) := by
    have h1 : F64.smant 0xC060100000000000 = -(257 * 2 ^ 44) := by decide +kernel
    have h2 : F64.expo 0xC060100000000000 = -45 := by decide +kernel
    rw [F64.toRat, h1, h2]
    norm_num
  have hb : F64.toRat 0xC05FE00000000000 = -(255 / 2) := by
    have h1 : F64.smant 0xC05FE00000000000 = -(255 * 2 ^ 45) := by decide +kernel
    have h2 : F64.expo 0xC05FE00000000000 = -46 := by decide +kernel
    rw [F64.toRat, h1, h2]
    norm_num
  have hc : F64.toRat 0xC060000000000000 = -128 := by
    have h1 : F64.smant 0xC060000000000000 = -(2 ^ 52) := by decide +kernel
    have h2 : F64.expo 0xC060000000000000 = -45 := by decide +kernel
    rw [F64.toRat, h1, h2]
    norm_num
  refine ⟨by decide, ?_, by decide, ?_, ?_⟩
  · rw [ha]; norm_num [abs_of_neg]
  · rw [hb]; norm_num [abs_of_pos]
  · rw [hc]; norm_num

/-! ### Witnesses: the codec -/

/-- A line that fits needs five bytes (R226), and R10 lets CBUF_BYTES be 4: so this is for every larger buffer. The next
theorem has a state for every implementation, with a line of no samples, which no run reaches. -/
theorem witness_HencLineCompletes (room : Config.cbufBytes ≠ 4) : SourceValid .full gridded ∧ 0 < lineCount gridded .ang ∧
    gridded.regs.lcnt.toNat ≠ Config.ltabMax ∧
    gridded.regs.clen.toNat + lineBytes gridded .full .ang 0 ≤ Config.cbufBytes ∧ 0 < lineBytes gridded .full .ang 0 := by
  have hb : lineBytes gridded .full .ang 0 = 5 := by decide +kernel
  have hc := Config.cbufBytes_bounds
  have hs := Config.sMax_bounds.1
  have ht := Config.ltabMax_bounds.1
  refine ⟨rfl, by decide, ?_, ?_, by omega⟩
  · show 0 ≠ Config.ltabMax
    omega
  · rw [hb]
    show 0 + 5 ≤ Config.cbufBytes
    omega

theorem witness_HencLineCompletes_empty :
    SourceValid .full noLights ∧ 0 < lineCount noLights .rad ∧ noLights.regs.lcnt.toNat ≠ Config.ltabMax ∧
    noLights.regs.clen.toNat + lineBytes noLights .full .rad 0 ≤ Config.cbufBytes := by
  have hs := Config.sMax_bounds.1
  have ht := Config.ltabMax_bounds.1
  refine ⟨rfl, by decide, ?_, ?_⟩
  · show 0 ≠ Config.ltabMax
    omega
  · have hb : lineBytes noLights .full .rad 0 = 0 := by decide +kernel
    rw [hb]
    exact Nat.zero_le _

/-- The four refusals, each at its edge: index NL, LCNT = LTAB_MAX, CLEN = CBUF_BYTES. -/
theorem witness_EncodeRefusals : State.reset.regs.status.gridValid = false ∧ State.reset.regs.status.invValid = false ∧
    SourceValid .full gridded ∧ lineCount gridded .rad ≤ 1 ∧ 0 < lineCount gridded .rad ∧
    tableFull.regs.lcnt.toNat = Config.ltabMax ∧ bufferFull.regs.lcnt.toNat ≠ Config.ltabMax ∧
    Config.cbufBytes < bufferFull.regs.clen.toNat + lineBytes bufferFull .full .rad 0 := by
  have hc := Config.cbufBytes_bounds
  have hs := Config.sMax_bounds.1
  have ht := Config.ltabMax_bounds
  refine ⟨rfl, rfl, rfl, by decide, by decide, ?_, ?_, ?_⟩
  · show (BitVec.ofNat 16 Config.ltabMax).toNat = Config.ltabMax
    rw [BitVec.toNat_ofNat, Nat.mod_eq_of_lt (by omega)]
  · show 0 ≠ Config.ltabMax
    omega
  · have hb : lineBytes bufferFull .full .rad 0 = 5 := by decide +kernel
    rw [hb]
    show Config.cbufBytes < (BitVec.ofNat 32 Config.cbufBytes).toNat + 5
    rw [BitVec.toNat_ofNat, Nat.mod_eq_of_lt (by omega)]
    omega

/-- As for HENC_LINE: one line of five bytes in any buffer larger than 4. -/
theorem witness_HencAllWritesTheStream (room : Config.cbufBytes ≠ 4) : ShapeInBounds gridded ∧
    SourceValid .full gridded ∧ lineStart gridded .full .rad (lineCount gridded .rad) ≤ Config.cbufBytes ∧
    0 < lineCount gridded .rad ∧ 0 < lineBytes gridded .full .rad 0 := by
  have hb : lineStart gridded .full .rad (lineCount gridded .rad) = 5 := by decide +kernel
  have hc := Config.cbufBytes_bounds
  exact ⟨gridded_shapeInBounds, rfl, by omega, by decide, by decide +kernel⟩

theorem witness_HencAllWritesTheStream_empty :
    ShapeInBounds noLights ∧ SourceValid .full noLights ∧
    lineStart noLights .full .rad (lineCount noLights .rad) ≤ Config.cbufBytes := by
  refine ⟨⟨Config.sMax_bounds.1, Nat.zero_le _⟩, rfl, ?_⟩
  have hb : lineStart noLights .full .rad (lineCount noLights .rad) = 0 := by decide +kernel
  rw [hb]
  exact Nat.zero_le _

/-- A line of one sample takes 5 bytes (R226). -/
theorem oneSample_bytes (c : Color) : (encodeLine [c]).bytes.length = 5 := by
  have ht : buildTree [c] = some (.leaf c) := rfl
  have hb : runBits (.leaf c) (runsOf [c]) = [] := by simp [runBits, runsOf, runsFrom, codeOf, codebook, codesBelow, codeBits]
  simp only [encodeLine, ht, hb]
  rfl

theorem tallGrid_lineStart (n : Nat) : lineStart tallGrid .full .rad n = 5 * n := by
  induction n with
  | zero => rfl
  | succ n ih =>
    have hb : lineBytes tallGrid .full .rad n = 5 := oneSample_bytes _
    rw [lineStart, ih, hb]
    omega

/-- Whether a grid can overflow CBUF depends on the parameters: S_MAX lines of one sample do wherever 5 S_MAX > CBUF_BYTES;
the line that fails is not the first one where CBUF_BYTES > 4. -/
theorem witness_HencAllOverflowTruncates (small : Config.cbufBytes < 5 * Config.sMax) : ShapeInBounds tallGrid ∧
    SourceValid .full tallGrid ∧ Config.cbufBytes < lineStart tallGrid .full .rad (lineCount tallGrid .rad) ∧
    (Config.cbufBytes ≠ 4 → lineStart tallGrid .full .rad 1 ≤ Config.cbufBytes) := by
  have hs := Config.sMax_bounds
  have hc := Config.cbufBytes_bounds
  have hn : lineCount tallGrid .rad = Config.sMax := by
    show (BitVec.ofNat 16 Config.sMax).toNat = Config.sMax
    rw [BitVec.toNat_ofNat, Nat.mod_eq_of_lt (by omega)]
  refine ⟨⟨hn.le, Config.lMax_bounds.1⟩, rfl, ?_, fun h => ?_⟩
  · rwa [hn, tallGrid_lineStart]
  · rw [tallGrid_lineStart]
    omega

/-- V32: one color; the stream ends at CLEN. -/
theorem witness_HdecCompletes : HdecReady (streamed [0xFF, 0x80, 0, 0, 0] 1 2) ∧
    readLine (decByte (streamed [0xFF, 0x80, 0, 0, 0] 1 2)) 0 1 2
      = .ok { cells := [(0, 0xFF0000), (1, 0xFF0000)], decEnd := 5 } := by
  refine ⟨⟨by decide, by decide, by decide, by decide⟩, by decide +kernel⟩

theorem witness_DecodeRefusals : ¬ HdecReady State.reset ∧ HdecReady (streamed [0xFF, 0x80, 0] 1 1) ∧
    (streamed [0xFF, 0x80, 0] 1 1).regs.clen.toNat < (streamed [0xFF, 0x80, 0] 1 1).regs.decOff.toNat + 4 ∧
    readLine (decByte (streamed [0xFF, 0x80, 0, 0, 1] 1 2)) 0 1 2 = .error .decBadStarts ∧
    readLine (decByte (streamed [0, 0, 0, 0] 1 1)) 0 1 1 = .error .decBadTree := by
  refine ⟨fun h => absurd h.1 (by decide), ⟨by decide, by decide, by decide, by decide⟩, by decide, by decide +kernel,
    by decide +kernel⟩

/-- V32's buffer in CBUF. -/
theorem witness_HdecReadsBackTheLine :
    let s := streamed [0xFF, 0x80, 0, 0, 0] 1 2
    let x : List Color := [0xFF0000, 0xFF0000]
    x ≠ [] ∧ x.length ≤ 256 ∧ s.regs.decLen.toNat = x.length ∧ s.regs.decRuns.toNat = (encodeLine x).runs ∧
    (∀ q, q < (encodeLine x).bytes.length →
      some (readCbuf s (s.regs.decOff.toNat + q)) = (encodeLine x).bytes[q]?) ∧
    s.regs.decOff.toNat + (encodeLine x).bytes.length ≤ s.regs.clen.toNat := by
  have hl : encodeLine [0xFF0000, 0xFF0000] = { bytes := [0xFF, 0x80, 0, 0, 0], runs := 1, leaves := 1 } := by
    decide +kernel
  refine ⟨by decide, by decide, by decide, by rw [hl]; decide, fun q hq => ?_, by rw [hl]; decide⟩
  rw [hl] at hq ⊢
  have hq5 : q < 5 := hq
  interval_cases q <;> rfl

theorem witness_CodesArePrefixFree : buildTree [1, 2] = some (.node (.leaf 1) (.leaf 2)) ∧ (1 : Color) ∈ [1, 2] ∧
    (2 : Color) ∈ [(1 : Color), 2] ∧ (1 : Color) ≠ 2 := by decide

theorem witness_BufferSize : buildTree [7] = some (.leaf 7) ∧ (encodeLine [7]).leaves = 1 := by decide +kernel

theorem witness_RunsCoverTheLine : [(1 : Color), 2] ≠ [] ∧ 0 < 1 ∧ 1 < [(1 : Color), 2].length := by decide

/-! ### Witnesses: numbers and invariants -/

theorem toRat_one : F64.toRat F64.one = 1 := by
  have h1 : F64.smant F64.one = 2 ^ 52 := by decide +kernel
  have h2 : F64.expo F64.one = -52 := by decide +kernel
  rw [F64.toRat, h1, h2]
  norm_num

theorem toRat_two : F64.toRat F64.two = 2 := by
  have h1 : F64.smant F64.two = 2 ^ 52 := by decide +kernel
  have h2 : F64.expo F64.two = -51 := by decide +kernel
  rw [F64.toRat, h1, h2]
  norm_num

theorem witness_ParameterFunctionsBounded : F64.isFinite F64.one = true ∧ F64.isFinite F64.two = true ∧
    0 ≤ F64.toRat F64.one ∧ F64.toRat F64.one ≤ 1 ∧ 0 < F64.toRat F64.two := by
  rw [toRat_one, toRat_two]
  exact ⟨by decide, by decide, by norm_num, by norm_num, by norm_num⟩

/-- 1^2 = 1. -/
theorem witness_ExactPowersAreGiven : F64.isFinite F64.one = true ∧ F64.isFinite F64.two = true ∧
    0 ≤ F64.toRat F64.one ∧ F64.toRat F64.one ≤ 1 ∧ 0 < F64.toRat F64.two ∧
    ((F64.toRat F64.one : ℚ) : ℝ) ^ ((F64.toRat F64.two : ℚ) : ℝ) = ((F64.toRat F64.one : ℚ) : ℝ) := by
  rw [toRat_one, toRat_two]
  exact ⟨by decide, by decide, by norm_num, by norm_num, by norm_num, by norm_num⟩

theorem witness_ArithmeticIsRoundedToNearest : F64.isFinite F64.one = true ∧ F64.isFinite F64.two = true ∧
    F64.toRat F64.two ≠ 0 := by
  rw [toRat_two]
  exact ⟨by decide, by decide, by norm_num⟩

theorem witness_ConversionsAreExact : F64.isFinite F64.half = true ∧ F64.isFinite (F64.inf true) = false ∧
    |(2 ^ 53 - 1 : Int)| < 2 ^ 53 := by decide

/-- A block with NOP pending meets the invariant and steps. -/
theorem witness_StepKeepsInvariant : Inv (pending 0 []) ∧ ∃ t, step (pending 0 []) = .next t := by
  refine ⟨⟨⟨⟨Nat.zero_le _, Nat.zero_le _⟩, ?_, ?_, ?_, ?_, ⟨Nat.zero_le _, Nat.zero_le _⟩, ?_, ?_, ?_, Nat.zero_le _,
    Nat.zero_le _⟩, ?_⟩, ⟨_, rfl⟩⟩
  · intro h; cases h
  · intro h; cases h
  · intro h; cases h
  · intro h; cases h
  · exact fun _ => ⟨rfl, rfl⟩
  · exact ⟨Nat.zero_le _, by decide⟩
  · exact fun _ => rfl
  · constructor <;> exact ⟨rfl, rfl⟩

theorem witness_CommandsKeepConfiguration : exec .cbufClear gridded = .next (clearStream gridded) := rfl

theorem witness_WritersOfEachMemory : exec (.inv .rad) transformed = .next (invPass .rad transformed) ∧
    Instr.inv .rad ≠ .sample ∧ Instr.inv .rad ≠ .hdec := ⟨rfl, by decide, by decide⟩

end Sys2Proof.Tests
end

section
/-! SUPPORT. What a host transaction at a mapped offset does: the one transaction rule each proof about the port starts
from, stated as equations of hostRead and hostWrite (20_memory.md R91, R110 to R113). -/

namespace Sys2Proof.Machine

variable {s : State} {off : Nat} {t : Target}

/-! ### The offsets of registers and of the writable windows -/

/-- A transaction of four bytes at an aligned offset is legal where the map says so (20_memory.md R91). -/
theorem targetOf_of_aligned (h : off % 4 = 0) : targetOf off 4 = mapOffset off := by
  simp [targetOf, h]

theorem within_of_true {b : Bool} (h : b = true) (t : Target) : within b t = some t := by
  simp [within, h]

/-- Every register stands at its own offset (20_memory.md R94). -/
@[simp] theorem targetOf_regOffset (r : Reg) : targetOf (regOffset r) 4 = some (.reg r) := by
  cases r <;> rfl

theorem targetOf_imgOffset {x y : Nat} (hx : x < Config.wMax) (hy : y < Config.hMax) :
    targetOf (imgOffset x y) 4 = some (.img y x) := by
  have hw := Config.wMax_bounds
  have hh := Config.hMax_bounds
  have region : 0x2000000 ≤ imgOffset x y ∧ imgOffset x y < 0x3000000 := by unfold imgOffset; omega
  have column : (imgOffset x y - 0x2000000) / 4 % 2048 = x := by unfold imgOffset; omega
  have row : (imgOffset x y - 0x2000000) / 4 / 2048 = y := by unfold imgOffset; omega
  rw [targetOf_of_aligned (by unfold imgOffset; omega)]
  simp (disch := omega) only [mapOffset, if_neg, if_pos, column, row]
  exact within_of_true (by simp [hx, hy]) _

theorem targetOf_fullOffset {sec l : Nat} (hs : sec < Config.sMax) (hl : l < Config.lMax) :
    targetOf (fullOffset sec l) 4 = some (.full sec l) := by
  have hS := Config.sMax_bounds
  have hL := Config.lMax_bounds
  have region : 0x3000000 ≤ fullOffset sec l ∧ fullOffset sec l < 0x3400000 := by unfold fullOffset; omega
  have sector : (fullOffset sec l - 0x3000000) / 4 / 256 = sec := by unfold fullOffset; omega
  have light : (fullOffset sec l - 0x3000000) / 4 % 256 = l := by unfold fullOffset; omega
  rw [targetOf_of_aligned (by unfold fullOffset; omega)]
  simp (disch := omega) only [mapOffset, if_neg, if_pos, sector, light]
  exact within_of_true (by simp [cellInBounds, hs, hl]) _

/-- The ring window has the light as the slow index (20_memory.md R100). -/
theorem targetOf_ringOffset {sec l : Nat} (hs : sec < Config.sMax) (hl : l < Config.lMax) :
    targetOf (ringOffset l sec) 4 = some (.ring l sec) := by
  have hS := Config.sMax_bounds
  have hL := Config.lMax_bounds
  have region : 0x3400000 ≤ ringOffset l sec ∧ ringOffset l sec < 0x3800000 := by unfold ringOffset; omega
  have light : (ringOffset l sec - 0x3400000) / 4 / 4096 = l := by unfold ringOffset; omega
  have sector : (ringOffset l sec - 0x3400000) / 4 % 4096 = sec := by unfold ringOffset; omega
  rw [targetOf_of_aligned (by unfold ringOffset; omega)]
  simp (disch := omega) only [mapOffset, if_neg, if_pos, sector, light]
  exact within_of_true (by simp [cellInBounds, hs, hl]) _

theorem targetOf_cbufOffset {q : Nat} (hq : 4 * q + 3 < Config.cbufBytes) :
    targetOf (cbufOffset q) 4 = some (.cbuf q) := by
  have hc := Config.cbufBytes_bounds
  have region : 0x1000000 ≤ cbufOffset q ∧ cbufOffset q < 0x2000000 := by unfold cbufOffset; omega
  have word : (cbufOffset q - 0x1000000) / 4 = q := by unfold cbufOffset; omega
  rw [targetOf_of_aligned (by unfold cbufOffset; omega)]
  simp (disch := omega) only [mapOffset, if_neg, if_pos, word]
  exact within_of_true (by simp [hq]) _

/-! ### Transactions performed and refused -/

theorem hostRead_of_performed (ht : targetOf off 4 = some t)
    (hp : s.regs.status.busy = false ∨ readRefusedBusy t = false) : hostRead off 4 s = (targetRead s t, s) := by
  rcases hp with hp | hp <;> simp [hostRead, ht, hp]

theorem hostRead_of_refused (ht : targetOf off 4 = some t) (hb : s.regs.status.busy = true)
    (hr : readRefusedBusy t = true) : hostRead off 4 s = (0, setHaz s) := by
  simp [hostRead, ht, hb, hr]

theorem hostWrite_of_performed (v : Word) (ht : targetOf off 4 = some t) (hw : targetWritable t = true)
    (hp : s.regs.status.busy = false ∨ writeRefusedBusy t = false) : hostWrite off 4 v s = targetWrite v t s := by
  rcases hp with hp | hp <;> simp [hostWrite, ht, hw, hp]

theorem hostWrite_of_refused (v : Word) (ht : targetOf off 4 = some t) (hw : targetWritable t = true)
    (hb : s.regs.status.busy = true) (hr : writeRefusedBusy t = true) : hostWrite off 4 v s = setHaz s := by
  simp [hostWrite, ht, hw, hb, hr]

/-- No window is read while a command is pending (20_memory.md R110). -/
theorem readRefusedBusy_of_window (h : ∀ r, t ≠ .reg r) : readRefusedBusy t = true := by
  cases t with
  | reg r => exact absurd rfl (h r)
  | _ => rfl

/-- No window is written while a command is pending (20_memory.md R110). -/
theorem writeRefusedBusy_of_window (h : ∀ r, t ≠ .reg r) : writeRefusedBusy t = true := by
  cases t with
  | reg r => exact absurd rfl (h r)
  | _ => rfl

/-! ### Transactions on registers -/

/-- A register is read the same, BUSY or not (20_memory.md R111). -/
@[simp] theorem hostRead_regOffset (r : Reg) (s : State) : hostRead (regOffset r) 4 s = (regRead s r, s) :=
  hostRead_of_performed (targetOf_regOffset r) (.inr rfl)

theorem hostWrite_regOffset_of_idle (v : Word) {r : Reg} (hw : regWritable r = true)
    (hb : s.regs.status.busy = false) : hostWrite (regOffset r) 4 v s = regWrite v r s :=
  hostWrite_of_performed v (targetOf_regOffset r) hw (.inl hb)

/-- CTRL, STATUS and CMD are written in every state (20_memory.md R111). -/
theorem hostWrite_regOffset_of_writableBusy (v : Word) {r : Reg} (hr : regWritableBusy r = true) (s : State) :
    hostWrite (regOffset r) 4 v s = regWrite v r s := by
  have hw : regWritable r = true := by
    cases r with
    | ctrl | status | cmd => rfl
    | _ => cases hr
  exact hostWrite_of_performed v (targetOf_regOffset r) hw (.inr (by simp [writeRefusedBusy, hr]))

theorem hostWrite_regOffset_of_busy (v : Word) {r : Reg} (hw : regWritable r = true)
    (hr : regWritableBusy r = false) (hb : s.regs.status.busy = true) : hostWrite (regOffset r) 4 v s = setHaz s :=
  hostWrite_of_refused v (targetOf_regOffset r) hw hb (by simp [writeRefusedBusy, hr])

theorem writeCtrl_of_softReset {v : Word} (h : v.getLsbD 3 = true) (s : State) : writeCtrl v s = softReset s := by
  rw [writeCtrl, if_pos h]

theorem writeCtrl_of_enables {v : Word} (h : v.getLsbD 3 = false) (s : State) :
    writeCtrl v s = mapRegs (fun g => { g with
      ctrl := { ieDone := v.getLsbD 0, ieErr := v.getLsbD 1, ieBus := v.getLsbD 2 } }) s := by
  rw [writeCtrl, if_neg (ne_true_of_eq_false h)]

theorem writeCmd_of_busy (v : Word) (h : s.regs.status.busy = true) : writeCmd v s = raiseFor v .busyReject s := by
  simp [writeCmd, h]

/-- The configuration registers are writable, and only while no command is pending (10_state.md R45 to R65). -/
theorem configuration_writable_when_idle :
    ∀ r ∈ Reg.clen :: configFields.map Prod.fst, regWritable r = true ∧ regWritableBusy r = false := by
  decide

/-- A host write at the head of the inputs is the next step (20_memory.md R116). -/
theorem step_of_hostWrite {v : Word} {size : Nat} {rest : List Input}
    (h : s.inputs = .host (.write off size v) :: rest) :
    step s = .next (hostWrite off size v { s with inputs := rest }) := by
  simp [step, nextStep, h, inputStep, hostStep]

/-- A run of k + 1 steps whose first step answers t is the run of k steps from t. -/
theorem run_succ_of_step {k : Nat} {t : State} (h : step s = .next t) :
    Sys2Proof.core.run (k + 1) s = Sys2Proof.core.run k t := by
  simp [Host.Core.run, Sys2Proof.core, h]

end Sys2Proof.Machine
end

section
/-! SUPPORT. What the memories read as after cells of IMG, FULL or CBUF are written (10_state.md R72, R75, R79). -/

namespace Sys2Proof.Machine

theorem cellOr_writeAll_of_mem {α : Type} (f : BitVec 128 → α) (m : Memory α) (b : BitVec 128)
    {cells : List (Nat × α)} {k : Nat} {v : α} (h : (k, v) ∈ cells) (agree : ∀ w, (k, w) ∈ cells → w = v) :
    cellOr f (Memory.writeAll m cells) b k = v :=
  cellOr_of_some f _ b k v (Memory.read?_writeAll_of_mem m cells k v h agree)

theorem cellOr_writeAll_of_notMem {α : Type} (f : BitVec 128 → α) (m : Memory α) (b : BitVec 128)
    {cells : List (Nat × α)} {k : Nat} (h : ∀ c ∈ cells, c.1 ≠ k) :
    cellOr f (Memory.writeAll m cells) b k = cellOr f m b k :=
  cellOr_congr f _ m b k (Memory.read?_writeAll_of_notMem m cells k h)

/-! ### One cell of IMG -/

theorem readImg_writeImg_self (y x : Nat) (c : Color) (s : State) :
    readImg (writeImg [(imgCell y x, c)] s) y x = c :=
  cellOr_writeAll_of_mem _ _ _ List.mem_cons_self (by simp)

theorem readImg_writeImg_of_ne {y x j i : Nat} (c : Color) (s : State) (h : imgCell j i ≠ imgCell y x) :
    readImg (writeImg [(imgCell j i, c)] s) y x = readImg s y x :=
  cellOr_writeAll_of_notMem _ _ _ (by simpa using h)

/-- Inside the stride, pixels have cells of their own (20_memory.md R98). -/
theorem imgCell_ne {y x j i : Nat} (hx : x < 2048) (hi : i < 2048) (h : (y, x) ≠ (j, i)) :
    imgCell j i ≠ imgCell y x := by
  have : y ≠ j ∨ x ≠ i := by simpa [Prod.ext_iff, or_iff_not_imp_left] using h
  unfold imgCell
  omega

/-! ### One cell of FULL -/

theorem readFull_writeFull_self (sec l : Nat) (c : Color) (s : State) :
    readFull (writeFull [(gridCell sec l, c)] s) sec l = c :=
  cellOr_writeAll_of_mem _ _ _ List.mem_cons_self (by simp)

theorem readFull_writeFull_of_ne {sec l j i : Nat} (c : Color) (s : State) (h : gridCell j i ≠ gridCell sec l) :
    readFull (writeFull [(gridCell j i, c)] s) sec l = readFull s sec l :=
  cellOr_writeAll_of_notMem _ _ _ (by simpa using h)

/-- Inside the stride, grid cells are cells of their own (20_memory.md R99). -/
theorem gridCell_ne {sec l j i : Nat} (hl : l < 256) (hi : i < 256) (h : (sec, l) ≠ (j, i)) :
    gridCell j i ≠ gridCell sec l := by
  have : sec ≠ j ∨ l ≠ i := by simpa [Prod.ext_iff, or_iff_not_imp_left] using h
  unfold gridCell
  omega

/-! ### The four bytes of a CBUF word -/

/-- A byte a CBUF write names, when it names it once, reads as written. -/
theorem readCbuf_writeCbuf_of_mem {cells : List Host.Cell} {p : Nat} {b : Byte} (s : State)
    (h : (p, b) ∈ cells) (agree : ∀ w, (p, w) ∈ cells → w = b) : readCbuf (writeCbuf cells s) p = b :=
  cellOr_writeAll_of_mem _ _ _ h agree

theorem readCbuf_writeCbuf_of_notMem {cells : List Host.Cell} {p : Nat} (s : State) (h : ∀ c ∈ cells, c.1 ≠ p) :
    readCbuf (writeCbuf cells s) p = readCbuf s p :=
  cellOr_writeAll_of_notMem _ _ _ h

/-- Lane i of a CBUF word write is stored at byte 4q + i (20_memory.md R107). -/
theorem readCbuf_writeCbuf_lanes (q : Nat) (v : Word) (s : State) {i : Nat} (hi : i < 4) :
    readCbuf (writeCbuf (cbufLanes q v) s) (4 * q + i) = v.extractLsb' (8 * i) 8 := by
  apply readCbuf_writeCbuf_of_mem
  · interval_cases i <;> simp [cbufLanes]
  · intro w hw
    interval_cases i <;> simpa [cbufLanes] using hw

theorem readCbuf_writeCbuf_lanes_of_ne {q p : Nat} (v : Word) (s : State) (h : p / 4 ≠ q) :
    readCbuf (writeCbuf (cbufLanes q v) s) p = readCbuf s p := by
  apply readCbuf_writeCbuf_of_notMem
  intro c hc
  have : c.1 / 4 = q := by
    simp only [cbufLanes, List.mem_cons, List.not_mem_nil, or_false] at hc
    rcases hc with rfl | rfl | rfl | rfl <;> simp only <;> omega
  rintro rfl
  exact h this

/-- The four lanes of a word, the last byte of the stream first, are the word. -/
theorem lanes_append (v : Word) :
    v.extractLsb' 24 8 ++ v.extractLsb' 16 8 ++ v.extractLsb' 8 8 ++ v.extractLsb' 0 8 = v := by
  rw [BitVec.extractLsb'_append_extractLsb'_eq_extractLsb' (by rfl),
    BitVec.extractLsb'_append_extractLsb'_eq_extractLsb' (by rfl),
    BitVec.extractLsb'_append_extractLsb'_eq_extractLsb' (by rfl)]
  exact BitVec.extractLsb'_eq_self

/-! ### The other memories -/

theorem keepsMem_writeImg (cells : List (Nat × Color)) (s : State) {m : MemName} (h : m ≠ .img) :
    keepsMem s (writeImg cells s) m := by
  cases m with
  | img => exact absurd rfl h
  | _ => intro _; intros; rfl

theorem keepsMem_writeFull (cells : List (Nat × Color)) (s : State) {m : MemName} (h : m ≠ .full) :
    keepsMem s (writeFull cells s) m := by
  cases m with
  | full => exact absurd rfl h
  | _ => intro _; intros; rfl

theorem keepsMem_writeCbuf (cells : List Host.Cell) (s : State) {m : MemName} (h : m ≠ .cbuf) :
    keepsMem s (writeCbuf cells s) m := by
  cases m with
  | cbuf => exact absurd rfl h
  | _ => intro _; intros; rfl

end Sys2Proof.Machine
end

section
/-! SUPPORT. The halves of an F64 register (20_memory.md R97). -/

namespace Sys2Proof.Machine

@[simp] theorem f64Value_setF64 (x : F64) (r : F64Reg) (g : Regs) : f64Value r (setF64 x r g) = x := by
  cases r <;> rfl

@[simp] theorem setF64_setF64 (x y : F64) (r : F64Reg) (g : Regs) : setF64 x r (setF64 y r g) = setF64 x r g := by
  cases r <;> rfl

@[simp] theorem setF64_status (x : F64) (r : F64Reg) (g : Regs) : (setF64 x r g).status = g.status := by
  cases r <;> rfl

theorem regRead_f64RegLo (s : State) (r : F64Reg) : regRead s (f64RegLo r) = (f64Value r s.regs).extractLsb' 0 32 := by
  cases r <;> rfl

theorem regRead_f64RegHi (s : State) (r : F64Reg) : regRead s (f64RegHi r) = (f64Value r s.regs).extractLsb' 32 32 := by
  cases r <;> rfl

theorem regWrite_f64RegLo (v : Word) (r : F64Reg) (s : State) :
    regWrite v (f64RegLo r) s = { s with regs := setF64 (setLow (f64Value r s.regs) v) r s.regs } := by
  cases r <;> rfl

theorem regWrite_f64RegHi (v : Word) (r : F64Reg) (s : State) :
    regWrite v (f64RegHi r) s = { s with regs := setF64 (setHigh (f64Value r s.regs) v) r s.regs } := by
  cases r <;> rfl

theorem hostWrite_f64RegLo {s : State} (v : Word) (r : F64Reg) (hb : s.regs.status.busy = false) :
    hostWrite (regOffset (f64RegLo r)) 4 v s
      = { s with regs := setF64 (setLow (f64Value r s.regs) v) r s.regs } := by
  rw [hostWrite_regOffset_of_idle v (by cases r <;> rfl) hb, regWrite_f64RegLo]

theorem hostWrite_f64RegHi {s : State} (v : Word) (r : F64Reg) (hb : s.regs.status.busy = false) :
    hostWrite (regOffset (f64RegHi r)) 4 v s
      = { s with regs := setF64 (setHigh (f64Value r s.regs) v) r s.regs } := by
  rw [hostWrite_regOffset_of_idle v (by cases r <;> rfl) hb, regWrite_f64RegHi]

/-- Loading the two halves of x, low word first, gives x, whatever the register held. -/
theorem setHigh_setLow (x y : F64) : setHigh (setLow y (x.extractLsb' 0 32)) (x.extractLsb' 32 32) = x := by
  unfold setHigh setLow
  rw [BitVec.extractLsb'_append_eq_right, BitVec.extractLsb'_append_extractLsb'_eq_extractLsb' (by rfl)]
  exact BitVec.extractLsb'_eq_self

theorem step_of_wrReg_f64RegLo {s : State} {r : F64Reg} {v : Word} {rest : List Input}
    (hb : s.regs.status.busy = false) (h : s.inputs = wrReg (f64RegLo r) v ++ rest) :
    step s = .next { s with inputs := rest, regs := setF64 (setLow (f64Value r s.regs) v) r s.regs } :=
  (step_of_hostWrite h).trans (congrArg Host.Outcome.next (hostWrite_f64RegLo v r hb))

theorem step_of_wrReg_f64RegHi {s : State} {r : F64Reg} {v : Word} {rest : List Input}
    (hb : s.regs.status.busy = false) (h : s.inputs = wrReg (f64RegHi r) v ++ rest) :
    step s = .next { s with inputs := rest, regs := setF64 (setHigh (f64Value r s.regs) v) r s.regs } :=
  (step_of_hostWrite h).trans (congrArg Host.Outcome.next (hostWrite_f64RegHi v r hb))

/-- wr64 is two steps, which load the whole value (30_encoding.md R137). -/
theorem run_wr64 {s : State} {r : F64Reg} {x : F64} {rest : List Input} (hb : s.regs.status.busy = false)
    (h : s.inputs = wr64 r x ++ rest) :
    Sys2Proof.core.run 2 s = .next { s with inputs := rest, regs := setF64 x r s.regs } := by
  rw [wr64, List.append_assoc] at h
  rw [run_succ_of_step (step_of_wrReg_f64RegLo hb h)]
  refine (run_succ_of_step (step_of_wrReg_f64RegHi (by simpa using hb) rfl)).trans ?_
  simp [Host.Core.run, setHigh_setLow]

end Sys2Proof.Machine
end

section
/-! PROOFS. The statements about the host port's windows and registers (20_memory.md R97 to R100, R107, R110, R111). -/

namespace Sys2Proof.Machine

theorem hostRead_imgOffset {s : State} {x y : Nat} (hb : s.regs.status.busy = false) (hx : x < Config.wMax)
    (hy : y < Config.hMax) : hostRead (imgOffset x y) 4 s = ((readImg s y x).setWidth 32, s) :=
  hostRead_of_performed (targetOf_imgOffset hx hy) (.inl hb)

theorem hostRead_fullOffset {s : State} {sec l : Nat} (hb : s.regs.status.busy = false) (hs : sec < Config.sMax)
    (hl : l < Config.lMax) : hostRead (fullOffset sec l) 4 s = ((readFull s sec l).setWidth 32, s) :=
  hostRead_of_performed (targetOf_fullOffset hs hl) (.inl hb)

theorem hostRead_ringOffset {s : State} {sec l : Nat} (hb : s.regs.status.busy = false) (hs : sec < Config.sMax)
    (hl : l < Config.lMax) : hostRead (ringOffset l sec) 4 s = ((readFull s sec l).setWidth 32, s) :=
  hostRead_of_performed (targetOf_ringOffset hs hl) (.inl hb)

/-- R98: what the IMG window reads, and what a write there stores and leaves. -/
theorem imgWindow {s : State} {x y : Nat} (v : Word) (hb : s.regs.status.busy = false) (hx : x < Config.wMax)
    (hy : y < Config.hMax) :
    hostRead (imgOffset x y) 4 s = ((readImg s y x).setWidth 32, s) ∧
    let t := hostWrite (imgOffset x y) 4 v s
    t.regs = s.regs ∧ KeepsPort s t ∧ readImg t y x = v.extractLsb' 0 24 ∧
    (∀ j i, i < 2048 → (j, i) ≠ (y, x) → readImg t j i = readImg s j i) ∧
    KeepsMems [.new, .conv, .full, .coefRad, .coefAng, .wide, .inv, .cbuf, .ltab, .dbuf] s t ∧
    hostRead (imgOffset x y) 4 t = ((v.extractLsb' 0 24).setWidth 32, t) := by
  have hw := Config.wMax_bounds
  have hwrite : hostWrite (imgOffset x y) 4 v s = writeImg [(imgCell y x, v.extractLsb' 0 24)] s :=
    hostWrite_of_performed v (targetOf_imgOffset hx hy) rfl (.inl hb)
  have stored := readImg_writeImg_self y x (v.extractLsb' 0 24) s
  rw [hwrite]
  refine ⟨hostRead_imgOffset hb hx hy, rfl, ⟨rfl, rfl, rfl⟩, stored, ?others, ?memories, ?back⟩
  case others =>
    intro j i hi hne
    exact readImg_writeImg_of_ne _ s (imgCell_ne hi (by omega) hne)
  case memories =>
    intro m hm
    exact keepsMem_writeImg _ s (ne_of_mem_of_not_mem hm (by decide))
  case back =>
    rw [hostRead_imgOffset (by simpa using hb) hx hy, stored]

/-- R99, R100: what the FULL window and its ring view read, and what a write to FULL stores and leaves. -/
theorem fullWindow {s : State} {sec l : Nat} (v : Word) (hb : s.regs.status.busy = false) (hs : sec < Config.sMax)
    (hl : l < Config.lMax) :
    hostRead (fullOffset sec l) 4 s = ((readFull s sec l).setWidth 32, s) ∧
    hostRead (ringOffset l sec) 4 s = ((readFull s sec l).setWidth 32, s) ∧
    let t := hostWrite (fullOffset sec l) 4 v s
    t.regs = s.regs ∧ KeepsPort s t ∧ readFull t sec l = v.extractLsb' 0 24 ∧
    (∀ j i, i < 256 → (j, i) ≠ (sec, l) → readFull t j i = readFull s j i) ∧
    KeepsMems [.img, .new, .conv, .coefRad, .coefAng, .wide, .inv, .cbuf, .ltab, .dbuf] s t ∧
    hostRead (fullOffset sec l) 4 t = ((v.extractLsb' 0 24).setWidth 32, t) ∧
    hostRead (ringOffset l sec) 4 t = ((v.extractLsb' 0 24).setWidth 32, t) := by
  have hL := Config.lMax_bounds
  have hwrite : hostWrite (fullOffset sec l) 4 v s = writeFull [(gridCell sec l, v.extractLsb' 0 24)] s :=
    hostWrite_of_performed v (targetOf_fullOffset hs hl) rfl (.inl hb)
  have stored := readFull_writeFull_self sec l (v.extractLsb' 0 24) s
  rw [hwrite]
  refine ⟨hostRead_fullOffset hb hs hl, hostRead_ringOffset hb hs hl, rfl, ⟨rfl, rfl, rfl⟩, stored, ?others,
    ?memories, ?back, ?ringBack⟩
  case others =>
    intro j i hi hne
    exact readFull_writeFull_of_ne _ s (gridCell_ne hi (by omega) hne)
  case memories =>
    intro m hm
    exact keepsMem_writeFull _ s (ne_of_mem_of_not_mem hm (by decide))
  case back =>
    rw [hostRead_fullOffset (by simpa using hb) hs hl, stored]
  case ringBack =>
    rw [hostRead_ringOffset (by simpa using hb) hs hl, stored]

/-- Settles O20: the windows name one cell each, and a write of one cell leaves every other cell and memory. -/
theorem imageAndGridWindows : Obligations.ImageAndGridWindows := by
  unfold Obligations.ImageAndGridWindows
  intro s a b v hb
  exact ⟨imgWindow v hb, fullWindow v hb⟩

/-- A word of the CBUF window reads as its four bytes (20_memory.md R107). -/
theorem hostRead_cbufOffset {s : State} {q : Nat} (hb : s.regs.status.busy = false)
    (hq : 4 * q + 3 < Config.cbufBytes) :
    hostRead (cbufOffset q) 4 s
      = (readCbuf s (4 * q + 3) ++ readCbuf s (4 * q + 2) ++ readCbuf s (4 * q + 1) ++ readCbuf s (4 * q), s) :=
  hostRead_of_performed (targetOf_cbufOffset hq) (.inl hb)

/-- Settles O21: a write sets the four lanes, which read back as the word. -/
theorem cbufWindow : Obligations.CbufWindow := by
  unfold Obligations.CbufWindow
  intro s q v hb hq
  have hwrite : hostWrite (cbufOffset q) 4 v s = writeCbuf (cbufLanes q v) s :=
    hostWrite_of_performed v (targetOf_cbufOffset hq) rfl (.inl hb)
  have lane (i : Nat) (hi : i < 4) := readCbuf_writeCbuf_lanes q v s hi
  rw [hwrite]
  refine ⟨hostRead_cbufOffset hb hq, rfl, ⟨rfl, rfl, rfl⟩, lane 0 (by decide), lane 1 (by decide),
    lane 2 (by decide), lane 3 (by decide), ?others, ?memories, ?back⟩
  case others =>
    intro p hp
    exact readCbuf_writeCbuf_lanes_of_ne v s hp
  case memories =>
    intro m hm
    exact keepsMem_writeCbuf _ s (ne_of_mem_of_not_mem hm (by decide))
  case back =>
    rw [hostRead_cbufOffset (by simpa using hb) hq, lane 3 (by decide), lane 2 (by decide), lane 1 (by decide),
      show readCbuf _ (4 * q) = _ from lane 0 (by decide), lanes_append]

/-- Settles O17: every target but a register is refused while a command is pending. -/
theorem windowsRefusedWhileBusy : Obligations.WindowsRefusedWhileBusy := by
  unfold Obligations.WindowsRefusedWhileBusy
  intro s off v t hb haligned hmap hwindow
  have ht : targetOf off 4 = some t := (targetOf_of_aligned haligned).trans hmap
  exact ⟨hostRead_of_refused ht hb (readRefusedBusy_of_window hwindow),
    fun hw => hostWrite_of_refused v ht hw hb (writeRefusedBusy_of_window hwindow)⟩

/-- Settles O18: CTRL, STATUS and CMD are written whatever BUSY is, the configuration registers only when it is 0. -/
theorem registersWhileBusy : Obligations.RegistersWhileBusy := by
  unfold Obligations.RegistersWhileBusy
  intro s v
  have ctrl : hostWrite 0x020 4 v s = writeCtrl v s := hostWrite_regOffset_of_writableBusy v (r := .ctrl) rfl s
  have status : hostWrite 0x024 4 v s = acknowledge v s := hostWrite_regOffset_of_writableBusy v (r := .status) rfl s
  have cmd : hostWrite 0x02C 4 v s = writeCmd v s := hostWrite_regOffset_of_writableBusy v (r := .cmd) rfl s
  refine ⟨fun h => ?_, fun h => ?_, status, fun hb => ⟨fun r => hostRead_regOffset r s, ?_, fun r hr => ?_⟩⟩
  · exact ctrl.trans (writeCtrl_of_softReset h s)
  · exact ctrl.trans (writeCtrl_of_enables h s)
  · exact cmd.trans (writeCmd_of_busy v hb)
  · obtain ⟨hw, hrefused⟩ := configuration_writable_when_idle r hr
    exact hostWrite_regOffset_of_busy v hw hrefused hb

/-- Settles O24: each word of the pair is one half, and the two writes of wr64 replace both. -/
theorem f64RegistersAreHalves : Obligations.F64RegistersAreHalves := by
  unfold Obligations.F64RegistersAreHalves
  intro s r v x rest hb
  refine ⟨hostWrite_f64RegLo v r hb, hostWrite_f64RegHi v r hb, ?_, ?_, run_wr64 hb⟩
  · rw [hostRead_regOffset, regRead_f64RegLo]
  · rw [hostRead_regOffset, regRead_f64RegHi]

end Sys2Proof.Machine
end

section
/-! SUPPORT. What the decoder answers, by rows of the opcode table (30_encoding.md R131, R133, R134): a row's mask covers
the opcode field and its match holds the row's number there, so a word that fits a row selects that row. -/

namespace Sys2Proof

/-- The opcode OP of a command (30_encoding.md R131). -/
def opcodeOf : Instr → Nat
  | .nop => 0
  | .sample => 1
  | .fwd _ _ => 2
  | .inv _ => 3
  | .hencLine _ _ _ => 4
  | .hencAll _ _ => 5
  | .hdec => 6
  | .cbufClear => 7
  | .gridLoad => 8

theorem opcodeOf_of_instrOfOp {op : Nat} {w : Word} {i : Instr} (h : instrOfOp op w = some i) : opcodeOf i = op := by
  unfold instrOfOp at h
  split at h <;> cases h <;> rfl

/-- A legal word selects a row by its opcode field, fits it, and is that opcode's command (30_encoding.md R134). -/
theorem decode_eq_ok_iff {w : Word} {i : Instr} :
    decode w = .ok i ↔
      ∃ row, opcodeRows[opField w]? = some row ∧ w &&& row.mask = row.pattern ∧ instrOfOp (opField w) w = some i := by
  unfold decode
  cases hrow : opcodeRows[opField w]? with
  | none => simp
  | some row =>
    cases hi : instrOfOp (opField w) w with
    | none => simp
    | some j => by_cases hfits : w &&& row.mask = row.pattern <;> simp [OpcodeRow.fits, hfits]

theorem opcodeRows_cover_opField :
    ∀ n < opcodeRows.length, ∀ row ∈ opcodeRows[n]?,
      row.mask.extractLsb' 0 4 = BitVec.allOnes 4 ∧ opField row.pattern = n := by
  decide

/-- A word that fits a row holds the row's number in its opcode field. -/
theorem opField_of_fits {w : Word} {n : Nat} {row : OpcodeRow} (hrow : opcodeRows[n]? = some row)
    (hfits : w &&& row.mask = row.pattern) : opField w = n := by
  obtain ⟨hn, -⟩ := List.getElem?_eq_some_iff.mp hrow
  obtain ⟨hmask, hpattern⟩ := opcodeRows_cover_opField n hn row hrow
  calc opField w = opField (w &&& row.mask) := by
        rw [opField, opField, BitVec.extractLsb'_and, hmask, BitVec.and_allOnes]
    _ = n := by rw [hfits, hpattern]

/-- A word that decodes fits the row of its command's opcode. -/
theorem fits_of_decode {w : Word} {i : Instr} {row : OpcodeRow} (hrow : opcodeRows[opcodeOf i]? = some row)
    (h : decode w = .ok i) : w &&& row.mask = row.pattern := by
  obtain ⟨row', hrow', hfits, hi⟩ := decode_eq_ok_iff.mp h
  rw [opcodeOf_of_instrOfOp hi, hrow', Option.some.injEq] at hrow
  rwa [← hrow]

/-- A word that fits a row decodes to the command of the row's opcode. -/
theorem decode_of_fits {w : Word} {n : Nat} {i : Instr} {row : OpcodeRow} (hrow : opcodeRows[n]? = some row)
    (hi : instrOfOp n w = some i) (hfits : w &&& row.mask = row.pattern) : decode w = .ok i := by
  obtain rfl := opField_of_fits hrow hfits
  exact decode_eq_ok_iff.mpr ⟨row, hrow, hfits, hi⟩

/-- The word of a command is decided by its row alone when the opcode fixes the command. -/
theorem decode_eq_ok_iff_fits {w : Word} {i : Instr} {row : OpcodeRow} (hrow : opcodeRows[opcodeOf i]? = some row)
    (hi : instrOfOp (opcodeOf i) w = some i) : decode w = .ok i ↔ w &&& row.mask = row.pattern :=
  ⟨fits_of_decode hrow, decode_of_fits hrow hi⟩

end Sys2Proof
end

section
/-! SUPPORT. The interrupt output and the acknowledging host operation `clrstat` (60_exceptions.md R275, R281;
30_encoding.md R142). -/

namespace Sys2Proof.Machine

/-- IRQ is high exactly while a flag and its enable are 1 (60_exceptions.md R275). -/
theorem irq_iff (s : State) :
    irq s = true ↔
      (s.regs.status.done = true ∧ s.regs.ctrl.ieDone = true) ∨ (s.regs.status.err = true ∧ s.regs.ctrl.ieErr = true) ∨
      ((s.regs.status.haz = true ∨ s.regs.status.busErr = true) ∧ s.regs.ctrl.ieBus = true) := by
  simp [irq, or_assoc]

/-- The mask of `clrstat` acknowledges all five W1C flags, and ERRCODE and ERRCMD with ERR (10_state.md R41). -/
theorem acknowledge_clrstat (s : State) :
    acknowledge 0x0000003E s = { s with regs := { s.regs with errCode := 0, errCmd := 0, status := { s.regs.status with
      done := false, err := false, haz := false, busErr := false, trunc8 := false } } } := by
  simp [acknowledge, statusAfterW1C]

/-- `clrstat` is one step, performed whether a command is pending or not. -/
theorem step_of_clrstat {s : State} {rest : List Input} (h : s.inputs = clrstat ++ rest) :
    step s = .next (acknowledge 0x0000003E { s with inputs := rest }) :=
  (step_of_hostWrite h).trans
    (congrArg Host.Outcome.next (hostWrite_regOffset_of_writableBusy _ (r := .status) rfl _))

end Sys2Proof.Machine
end

section
/-! PROOFS. The statements about command words and `clrstat` (30_encoding.md R133, R142). -/

namespace Sys2Proof

/-- Settles O3: a legal word fits the row of its command, and a word that fits a row selects it by its opcode field. -/
theorem legalWordsAreTheTable : Obligations.LegalWordsAreTheTable := by
  unfold Obligations.LegalWordsAreTheTable
  intro w
  refine ⟨?nop, ?sample, ?fwd, ?inv, ?hencLine, ?hencAll, ?hdec, ?cbufClear, ?gridLoad⟩
  case nop => exact decode_eq_ok_iff_fits (i := .nop) rfl rfl
  case sample => exact decode_eq_ok_iff_fits (i := .sample) rfl rfl
  case hdec => exact decode_eq_ok_iff_fits (i := .hdec) rfl rfl
  case cbufClear => exact decode_eq_ok_iff_fits (i := .cbufClear) rfl rfl
  case gridLoad => exact decode_eq_ok_iff_fits (i := .gridLoad) rfl rfl
  case fwd =>
    exact ⟨fun ⟨_, _, h⟩ => fits_of_decode rfl h,
      fun h => ⟨axisField w, basisField w, decode_of_fits (n := 2) rfl rfl h⟩⟩
  case inv =>
    exact ⟨fun ⟨_, h⟩ => fits_of_decode rfl h, fun h => ⟨axisField w, decode_of_fits (n := 3) rfl rfl h⟩⟩
  case hencLine =>
    exact ⟨fun ⟨_, _, _, h⟩ => fits_of_decode rfl h,
      fun h => ⟨axisField w, sourceField w, idxField w, decode_of_fits (n := 4) rfl rfl h⟩⟩
  case hencAll =>
    exact ⟨fun ⟨_, _, h⟩ => fits_of_decode rfl h,
      fun h => ⟨axisField w, sourceField w, decode_of_fits (n := 5) rfl rfl h⟩⟩

end Sys2Proof

namespace Sys2Proof.Machine

/-- Settles O26: the step is the acknowledging write of STATUS, which leaves no flag for IRQ. -/
theorem clrstatClears : Obligations.ClrstatClears := by
  unfold Obligations.ClrstatClears
  intro s
  refine ⟨irq_iff s, fun rest h => ⟨_, step_of_clrstat h, ?_, acknowledge_clrstat _⟩⟩
  rw [acknowledge_clrstat]
  simp [irq]

end Sys2Proof.Machine
end

section
/-! SUPPORT. The columns of SAMPLE: capture and expansion along one light, and the cells a list of columns writes
(40_sampler.md R162, R164, R167). -/

namespace Sys2Proof.Machine

@[simp] theorem expandFrom_length (prev : Color) (x : List (Option Color)) :
    (expandFrom prev x).length = x.length := by
  induction x generalizing prev with
  | nil => rfl
  | cons v x ih => exact congrArg (· + 1) (ih _)

@[simp] theorem expandColumn_length (x : List (Option Color)) : (expandColumn x).length = x.length :=
  expandFrom_length 0 x

/-- Each sector takes its own color if it has one, else the color that stands one place earlier when `prev` is put in
front of the expansion. -/
theorem expandFrom_getElem? {x : List (Option Color)} {i : Nat} {v : Option Color} (prev : Color) (hv : x[i]? = some v) :
    (expandFrom prev x)[i]? = some (v.getD ((prev :: expandFrom prev x)[i]?.getD 0)) := by
  induction x generalizing prev i with
  | nil => cases hv
  | cons w x ih =>
    cases i with
    | zero =>
      obtain rfl : w = v := by simpa using hv
      rfl
    | succ i => exact ih (w.getD prev) hv

@[simp] theorem captureFrom_length (prev : Color) (x : List Color) : (captureFrom prev x).length = x.length := by
  induction x generalizing prev with
  | nil => rfl
  | cons c x ih => exact congrArg (· + 1) (ih c)

@[simp] theorem captureColumn_length (x : List Color) : (captureColumn x).length = x.length := by
  cases x with
  | nil => rfl
  | cons c x => exact congrArg (· + 1) (captureFrom_length c x)

@[simp] theorem sampleColumn_length (s : State) (l : Nat) : (sampleColumn s l).length = s.regs.cfgS.toNat := by
  simp [sampleColumn]

@[simp] theorem newColumns_length (s : State) : (newColumns s).length = s.regs.cfgL.toNat := by
  simp [newColumns]

/-- Every column of the pass has an entry for each sector. -/
theorem length_of_mem_newColumns {s : State} {col : List (Option Color)} (h : col ∈ newColumns s) :
    col.length = s.regs.cfgS.toNat := by
  obtain ⟨l, -, rfl⟩ := List.mem_map.1 h
  simp

/-- Entry `sec` of column `l` is written to the cell (sec, l). -/
theorem mem_columnCells {α : Type} {cols : List (List α)} {sec l : Nat} (hl : l < cols.length)
    (hs : sec < cols[l].length) : (gridCell sec l, cols[l][sec]) ∈ columnCells cols := by
  have hcol : (cols[l], l) ∈ cols.zipIdx := List.mk_mem_zipIdx_iff_getElem?.2 (List.getElem?_eq_getElem hl)
  have hval : (cols[l][sec], sec) ∈ cols[l].zipIdx := List.mk_mem_zipIdx_iff_getElem?.2 (List.getElem?_eq_getElem hs)
  exact List.mem_flatMap.2 ⟨_, hcol, List.mem_map.2 ⟨_, hval, rfl⟩⟩

/-- Columns of S entries, one for each of L lights, write every cell of the shape. -/
theorem columnCells_cover {α : Type} {cols : List (List α)} {n sec l : Nat} (hlen : ∀ col ∈ cols, col.length = n)
    (hs : sec < n) (hl : l < cols.length) : ∃ c ∈ columnCells cols, c.1 = gridCell sec l :=
  ⟨_, mem_columnCells hl (by rwa [hlen _ (List.getElem_mem hl)]), rfl⟩

end Sys2Proof.Machine
end

section
/-! SUPPORT. A cell that a list of writes covers no longer depends on what the memory held before. -/

namespace Sys2Proof.Machine

variable {α : Type}

theorem Memory.exists_read?_writeAll {cells : List (Nat × α)} {k : Nat} (h : ∃ c ∈ cells, c.1 = k) :
    ∃ v, ∀ m : Memory α, Memory.read? (Memory.writeAll m cells) k = some v := by
  induction cells with
  | nil => simp at h
  | cons c cells ih =>
    by_cases htail : ∃ d ∈ cells, d.1 = k
    · obtain ⟨v, hv⟩ := ih htail
      exact ⟨v, fun m => hv (Memory.write m c.1 c.2)⟩
    · have hc : c.1 = k := by simpa [htail] using h
      refine ⟨c.2, fun m => ?_⟩
      rw [Memory.writeAll_cons, Memory.read?_writeAll_of_notMem _ _ _ fun d hd he => htail ⟨d, hd, he⟩, ← hc,
        Memory.read?_write_self]

theorem cellOr_writeAll_eq_of_covered (f : BitVec 128 → α) (m m' : Memory α) (b b' : BitVec 128)
    {cells : List (Nat × α)} {k : Nat} (h : ∃ c ∈ cells, c.1 = k) :
    cellOr f (Memory.writeAll m cells) b k = cellOr f (Memory.writeAll m' cells) b' k := by
  obtain ⟨v, hv⟩ := Memory.exists_read?_writeAll h
  rw [cellOr_of_some f _ b k v (hv m), cellOr_of_some f _ b' k v (hv m')]

end Sys2Proof.Machine
end

section
/-! SUPPORT. A SAMPLE pass: what it leaves in the registers and the memories it writes, and that two states with the same
operands and pixels sample the same colors (40_sampler.md R150 to R165, R168). -/

namespace Sys2Proof.Machine

theorem exec_sample_of_ready {s : State} (h : SampleReady s) : exec .sample s = .next (samplePass s) := by
  rcases execSample_cases s with ⟨-, hexec⟩ | ⟨hnot, -⟩
  · exact hexec
  · exact absurd h hnot

@[simp] theorem samplePass_regs (s : State) : (samplePass s).regs = { s.regs with
      gridS := s.regs.cfgS, gridL := s.regs.cfgL
      convCount := BitVec.ofNat 16 (convertedCount (newColumns s) s.regs.cfgS.toNat)
      status := statusNewGrid s.regs.status } := rfl

@[simp] theorem samplePass_mems (s : State) : (samplePass s).mems = { s.mems with
      new := Memory.writeAll s.mems.new (columnCells (newColumns s))
      full := Memory.writeAll s.mems.full (columnCells ((newColumns s).map expandColumn))
      conv := Memory.writeAll s.mems.conv
        ((List.range s.regs.cfgS.toNat).map fun sec => (sec, convertedAt (newColumns s) sec)) } := rfl

/-- Two states agree on all that SAMPLE reads: its operand registers and the W x H pixels (R168). -/
structure SampleInputsAgree (s s' : State) : Prop where
  imgW : s'.regs.imgW = s.regs.imgW
  imgH : s'.regs.imgH = s.regs.imgH
  cfgS : s'.regs.cfgS = s.regs.cfgS
  cfgL : s'.regs.cfgL = s.regs.cfgL
  sampleRad : s'.regs.sampleRad = s.regs.sampleRad
  rMax : s'.regs.rMax = s.regs.rMax
  gMax : s'.regs.gMax = s.regs.gMax
  bMax : s'.regs.bMax = s.regs.bMax
  gamma : s'.regs.gamma = s.regs.gamma
  cx : s'.regs.cx = s.regs.cx
  cy : s'.regs.cy = s.regs.cy
  rin : s'.regs.rin = s.regs.rin
  rout : s'.regs.rout = s.regs.rout
  pixels : ∀ y x, y < s.regs.imgH.toNat → x < s.regs.imgW.toNat → readImg s' y x = readImg s y x

/-- A coordinate clamped to an axis of n >= 1 pixels is one of them (R156). -/
theorem clamp_toNat_lt {n : Nat} (hn : 1 ≤ n) (a : Int) : (clamp a 0 (n - 1)).toNat < n := by
  unfold clamp
  omega

namespace SampleInputsAgree

variable {s s' : State}

theorem sampleReady (h : SampleInputsAgree s s') (hr : SampleReady s) : SampleReady s' := by
  simpa only [SampleReady, ShapeReady, h.imgW, h.imgH, h.cfgS, h.cfgL, h.sampleRad, h.gamma, h.cx, h.cy, h.rin,
    h.rout] using hr

theorem lightRadius_eq (h : SampleInputsAgree s s') (l : Nat) : lightRadius s' l = lightRadius s l := by
  simp only [lightRadius, h.rin, h.rout, h.cfgL]

theorem sectorAngle_eq (h : SampleInputsAgree s s') (sec : Nat) : sectorAngle s' sec = sectorAngle s sec := by
  simp only [sectorAngle, h.cfgS]

theorem centreX_eq (h : SampleInputsAgree s s') (sec l : Nat) : centreX s' sec l = centreX s sec l := by
  simp only [centreX, h.cx, h.lightRadius_eq, h.sectorAngle_eq]

theorem centreY_eq (h : SampleInputsAgree s s') (sec l : Nat) : centreY s' sec l = centreY s sec l := by
  simp only [centreY, h.cy, h.lightRadius_eq, h.sectorAngle_eq]

/-- Only pixels of the image are read, so agreement on the image is enough. -/
theorem neighbourhood_eq (h : SampleInputsAgree s s') (hr : SampleReady s) (cx cy : Int) :
    neighbourhood s' cx cy = neighbourhood s cx cy := by
  obtain ⟨⟨hw, -⟩, ⟨hh, -⟩, -⟩ := hr
  have hpixel : ∀ b a : Int,
      readImg s' (clamp b 0 (s.regs.imgH.toNat - 1)).toNat (clamp a 0 (s.regs.imgW.toNat - 1)).toNat =
        readImg s (clamp b 0 (s.regs.imgH.toNat - 1)).toNat (clamp a 0 (s.regs.imgW.toNat - 1)).toNat :=
    fun b a => h.pixels _ _ (clamp_toNat_lt hh b) (clamp_toNat_lt hw a)
  simp only [neighbourhood, sampleOffsets, h.sampleRad, h.imgH, h.imgW, hpixel]

theorem channelMax_eq (h : SampleInputsAgree s s') (k : Channel) : channelMax s' k = channelMax s k := by
  cases k with
  | red => exact congrArg BitVec.toNat h.rMax
  | green => exact congrArg BitVec.toNat h.gMax
  | blue => exact congrArg BitVec.toNat h.bMax

theorem colorOfPixels_eq (h : SampleInputsAgree s s') (pixels : List Color) :
    colorOfPixels s' pixels = colorOfPixels s pixels := by
  simp only [colorOfPixels, channelValue, sampleArea, h.sampleRad, h.gamma, h.channelMax_eq]

theorem sampleColor_eq (h : SampleInputsAgree s s') (hr : SampleReady s) (sec l : Nat) :
    sampleColor s' sec l = sampleColor s sec l := by
  simp only [sampleColor, h.centreX_eq, h.centreY_eq, h.neighbourhood_eq hr, h.colorOfPixels_eq]

theorem newColumns_eq (h : SampleInputsAgree s s') (hr : SampleReady s) : newColumns s' = newColumns s := by
  simp only [newColumns, sampleColumn, h.cfgS, h.cfgL, h.sampleColor_eq hr]

theorem readNew_samplePass (h : SampleInputsAgree s s') (hr : SampleReady s) {sec l : Nat}
    (hs : sec < s.regs.cfgS.toNat) (hl : l < s.regs.cfgL.toNat) :
    readNew (samplePass s') sec l = readNew (samplePass s) sec l := by
  simp only [readNew, samplePass_mems, h.newColumns_eq hr]
  exact cellOr_writeAll_eq_of_covered _ _ _ _ _
    (columnCells_cover (fun _ => length_of_mem_newColumns) hs (by simpa using hl))

theorem readFull_samplePass (h : SampleInputsAgree s s') (hr : SampleReady s) {sec l : Nat}
    (hs : sec < s.regs.cfgS.toNat) (hl : l < s.regs.cfgL.toNat) :
    readFull (samplePass s') sec l = readFull (samplePass s) sec l := by
  have hlen : ∀ col ∈ (newColumns s).map expandColumn, col.length = s.regs.cfgS.toNat :=
    List.forall_mem_map.2 fun col hcol => by rw [expandColumn_length, length_of_mem_newColumns hcol]
  simp only [readFull, samplePass_mems, h.newColumns_eq hr]
  exact cellOr_writeAll_eq_of_covered _ _ _ _ _ (columnCells_cover hlen hs (by simpa using hl))

theorem readConv_samplePass (h : SampleInputsAgree s s') (hr : SampleReady s) {sec : Nat}
    (hs : sec < s.regs.cfgS.toNat) : readConv (samplePass s') sec = readConv (samplePass s) sec := by
  simp only [readConv, samplePass_mems, h.newColumns_eq hr, h.cfgS]
  exact cellOr_writeAll_eq_of_covered _ _ _ _ _ ⟨_, List.mem_map_of_mem (List.mem_range.2 hs), rfl⟩

end SampleInputsAgree

end Sys2Proof.Machine
end

section
/-! PROOFS. The statements about grid expansion and about the determinism of SAMPLE (40_sampler.md R164, R168). -/

namespace Sys2Proof.Machine

/-- Settles O28: expansion from the color 0, whose place before sector 0 is the rule's "otherwise 0". -/
theorem expansionCarriesForward : Obligations.ExpansionCarriesForward := by
  unfold Obligations.ExpansionCarriesForward
  intro x sec hsec
  refine ⟨expandColumn_length x, ?_⟩
  obtain ⟨v, hv⟩ : ∃ v, x[sec]? = some v := ⟨_, List.getElem?_eq_getElem hsec⟩
  rw [expandColumn, expandFrom_getElem? 0 hv, hv]
  cases v with
  | some c => rfl
  | none =>
    cases sec with
    | zero => rfl
    | succ sec => rfl

/-- Settles O31: both commands pass R151 and write the same columns, which cover every cell of the shape. -/
theorem sampleIsDeterministic : Obligations.SampleIsDeterministic := by
  unfold Obligations.SampleIsDeterministic
  intro s s' t t' hr himgW himgH hcfgS hcfgL hrad hrMax hgMax hbMax hgamma hcx hcy hrin hrout hpixels ht ht'
  have h : SampleInputsAgree s s' :=
    ⟨himgW, himgH, hcfgS, hcfgL, hrad, hrMax, hgMax, hbMax, hgamma, hcx, hcy, hrin, hrout, hpixels⟩
  obtain rfl : samplePass s = t := Host.Outcome.next.inj ((exec_sample_of_ready hr).symm.trans ht)
  obtain rfl : samplePass s' = t' := Host.Outcome.next.inj ((exec_sample_of_ready (h.sampleReady hr)).symm.trans ht')
  refine ⟨fun sec l hs hl => ⟨h.readFull_samplePass hr hs hl, h.readNew_samplePass hr hs hl⟩,
    fun sec hs => h.readConv_samplePass hr hs, ?_, h.cfgS, h.cfgL⟩
  simp only [samplePass_regs, h.newColumns_eq hr, h.cfgS]

end Sys2Proof.Machine
end

section
/-! SUPPORT. binary64 numbers as rational numbers: the fields of an encoding, and the number an encoded significand
stands for (00_scope.md R17). -/

namespace Sys2Proof

/-- The sign bit as a factor. -/
def F64.signFactor (neg : Bool) : ℚ := if neg then -1 else 1

@[simp] theorem F64.abs_signFactor (neg : Bool) : |F64.signFactor neg| = 1 := by
  cases neg <;> simp [F64.signFactor]

theorem F64.signFactor_bne (a b : Bool) :
    F64.signFactor (a != b) = F64.signFactor a * F64.signFactor b := by
  cases a <;> cases b <;> simp [F64.signFactor]

theorem F64.signFactor_mul_natAbs (n : Int) : F64.signFactor (decide (n < 0)) * (n.natAbs : ℚ) = n := by
  by_cases hn : n < 0
  · have h : (n.natAbs : Int) = -n := by omega
    simp [F64.signFactor, hn, ← Int.cast_natCast (R := ℚ), h]
  · have h : (n.natAbs : Int) = n := by omega
    simp [F64.signFactor, hn, ← Int.cast_natCast (R := ℚ), h]

theorem F64.smant_eq (x : F64) : (F64.smant x : ℚ) = F64.signFactor (F64.neg x) * F64.mant x := by
  unfold F64.smant F64.signFactor
  cases F64.neg x <;> simp

theorem F64.toRat_eq (x : F64) :
    F64.toRat x = F64.signFactor (F64.neg x) * (F64.mant x * (2 : ℚ) ^ F64.expo x) := by
  rw [F64.toRat, F64.smant_eq, mul_assoc]

theorem F64.abs_toRat (x : F64) : |F64.toRat x| = F64.mant x * (2 : ℚ) ^ F64.expo x := by
  have h : (0 : ℚ) ≤ F64.mant x * (2 : ℚ) ^ F64.expo x := by positivity
  rw [F64.toRat_eq, abs_mul, F64.abs_signFactor, one_mul, abs_of_nonneg h]

theorem F64.mant_lt (x : F64) : F64.mant x < 2 ^ 53 := by
  unfold F64.mant F64.fracField
  split <;> omega

theorem F64.isNaN_of_isFinite {x : F64} (h : F64.isFinite x = true) : F64.isNaN x = false := by
  have hx : F64.expField x ≠ 2047 := of_decide_eq_true h
  simp [F64.isNaN, hx]

theorem F64.mant_ne_zero_of_toRat_ne_zero {x : F64} (h : F64.toRat x ≠ 0) : F64.mant x ≠ 0 := by
  intro hm
  exact h (by rw [F64.toRat_eq, hm]; simp)

theorem F64.isZero_of_mant_ne_zero {x : F64} (h : F64.mant x ≠ 0) : F64.isZero x = false := by
  refine decide_eq_false fun hz => h ?_
  have hexp : F64.expField x = 0 := by unfold F64.expField; omega
  have hfrac : F64.fracField x = 0 := by unfold F64.fracField; omega
  rw [F64.mant, if_pos hexp, hfrac]

/-! ### The encoding of a sign and a magnitude -/

section
variable {neg : Bool} {mag : Nat}

theorem F64.toNat_withSign (h : mag < 2 ^ 63) :
    (F64.withSign neg mag).toNat = (if neg then 2 ^ 63 else 0) + mag := by
  cases neg <;> simp only [F64.withSign, BitVec.toNat_ofNat, if_true, if_false, Bool.false_eq_true] <;> omega

theorem F64.expField_withSign (h : mag < 2 ^ 63) : F64.expField (F64.withSign neg mag) = mag / 2 ^ 52 := by
  rw [F64.expField, F64.toNat_withSign h]
  split <;> omega

theorem F64.fracField_withSign (h : mag < 2 ^ 63) : F64.fracField (F64.withSign neg mag) = mag % 2 ^ 52 := by
  rw [F64.fracField, F64.toNat_withSign h]
  split <;> omega

theorem F64.neg_withSign (h : mag < 2 ^ 63) : F64.neg (F64.withSign neg mag) = neg := by
  rw [F64.neg, BitVec.getLsbD, F64.toNat_withSign h, Nat.testBit_eq_decide_div_mod_eq]
  cases neg <;> simp <;> omega

theorem F64.isFinite_withSign (h : mag < 2047 * 2 ^ 52) : F64.isFinite (F64.withSign neg mag) = true := by
  refine decide_eq_true ?_
  rw [F64.expField_withSign (by omega)]
  omega

end

/-- The magnitude E * 2^52 + q that `round` encodes stands for q * 2^(E - 1074): for a subnormal (E = 0, q < 2^52), for
a normal number, and where rounding carried q up to 2^53. -/
theorem F64.toRat_withSign {neg : Bool} {E q : Nat} (hq : q ≤ 2 ^ 53) (hE : E = 0 ∨ 2 ^ 52 ≤ q)
    (hfin : E * 2 ^ 52 + q < 2047 * 2 ^ 52) :
    F64.toRat (F64.withSign neg (E * 2 ^ 52 + q)) = F64.signFactor neg * (q * (2 : ℚ) ^ ((E : Int) - 1074)) := by
  have hmag : E * 2 ^ 52 + q < 2 ^ 63 := by omega
  rw [F64.toRat_eq, F64.neg_withSign hmag, F64.mant, F64.expo, F64.expField_withSign hmag, F64.fracField_withSign hmag]
  congr 1
  rcases Nat.lt_or_ge q (2 ^ 52) with hsub | hnorm
  · obtain rfl : E = 0 := by omega
    have hexp : (0 * 2 ^ 52 + q) / 2 ^ 52 = 0 := by omega
    have hfrac : (0 * 2 ^ 52 + q) % 2 ^ 52 = q := by omega
    rw [hexp, hfrac]
    norm_num
  · rcases Nat.lt_or_ge q (2 ^ 53) with hlt | hge
    · have hexp : (E * 2 ^ 52 + q) / 2 ^ 52 = E + 1 := by omega
      have hfrac : 2 ^ 52 + (E * 2 ^ 52 + q) % 2 ^ 52 = q := by omega
      have hmax : ((max (E + 1) 1 : Nat) : Int) - 1075 = E - 1074 := by omega
      rw [hexp, if_neg (Nat.succ_ne_zero E), hfrac, hmax]
    · obtain rfl : q = 2 ^ 53 := Nat.le_antisymm hq hge
      have hexp : (E * 2 ^ 52 + 2 ^ 53) / 2 ^ 52 = E + 2 := by omega
      have hfrac : 2 ^ 52 + (E * 2 ^ 52 + 2 ^ 53) % 2 ^ 52 = 2 ^ 52 := by omega
      have hmax : ((max (E + 2) 1 : Nat) : Int) - 1075 = E - 1074 + 1 := by omega
      rw [hexp, if_neg (Nat.succ_ne_zero (E + 1)), hfrac, hmax, zpow_add_one₀ (by norm_num)]
      push_cast
      ring

@[simp] theorem F64.toRat_withSign_zero (neg : Bool) : F64.toRat (F64.withSign neg 0) = 0 := by
  have h := F64.toRat_withSign (neg := neg) (E := 0) (q := 0) (by omega) (Or.inl rfl) (by omega)
  simpa using h

end Sys2Proof
end

section
/-! SUPPORT. How far `round` is from the exact value: half of the last place, while the value is far from overflow
(00_scope.md R17). -/

namespace Sys2Proof

theorem F64.roundShift_error (m sh : Nat) (sticky : Bool) :
    2 * (F64.roundShift m sh sticky * 2 ^ sh) ≤ 2 * m + 2 ^ sh ∧
    2 * m ≤ 2 * (F64.roundShift m sh sticky * 2 ^ sh) + 2 ^ sh := by
  cases sh with
  | zero => simp [F64.roundShift]
  | succ sh =>
    have hdiv : 2 ^ (sh + 1) * (m / 2 ^ (sh + 1)) + m % 2 ^ (sh + 1) = m := Nat.div_add_mod _ _
    have hmod : m % 2 ^ (sh + 1) < 2 ^ (sh + 1) := Nat.mod_lt _ (by positivity)
    have hpow : 2 ^ (sh + 1) = 2 * 2 ^ sh := by rw [pow_succ, mul_comm]
    rw [mul_comm] at hdiv
    simp only [F64.roundShift, Nat.succ_ne_zero, if_false, Nat.shiftRight_eq_div_pow, Nat.one_shiftLeft,
      Nat.add_sub_cancel]
    split
    case isTrue hup =>
      have hhalf : 2 ^ sh ≤ m % 2 ^ (sh + 1) := by
        rcases hup with hgt | ⟨heq, _⟩
        · exact hgt.le
        · exact heq.ge
      rw [Nat.add_mul, Nat.one_mul]
      omega
    case isFalse hdown =>
      have hhalf : m % 2 ^ (sh + 1) ≤ 2 ^ sh := Nat.le_of_not_lt fun hgt => hdown (Or.inl hgt)
      omega

/-- The significand `round` keeps of m * 2^e, in units of the last place kept. -/
def F64.keptSignificand (m : Nat) (e : Int) (sticky : Bool) : Nat :=
  if F64.ulpExp m e ≤ e then m <<< (e - F64.ulpExp m e).toNat
  else F64.roundShift m (F64.ulpExp m e - e).toNat sticky

theorem F64.round_eq {m : Nat} (hm : m ≠ 0) (neg : Bool) (e : Int) (sticky : Bool) :
    F64.round neg m e sticky = F64.withSign neg
      (min ((F64.ulpExp m e + 1074).toNat * 2 ^ 52 + F64.keptSignificand m e sticky) (2047 * 2 ^ 52)) := by
  rw [F64.round, if_neg hm]
  rfl

@[simp] theorem F64.round_zero (neg : Bool) (e : Int) (sticky : Bool) :
    F64.round neg 0 e sticky = F64.withSign neg 0 := if_pos rfl

theorem two_zpow_eq_mul_pow {a b : Int} (h : b ≤ a) : (2 : ℚ) ^ a = (2 : ℚ) ^ (a - b).toNat * (2 : ℚ) ^ b := by
  have h' : a = ((a - b).toNat : Int) + b := by omega
  conv_lhs => rw [h', zpow_add₀ (by norm_num), zpow_natCast]

theorem F64.keptSignificand_error (m : Nat) (e : Int) (sticky : Bool) :
    |(F64.keptSignificand m e sticky : ℚ) * (2 : ℚ) ^ F64.ulpExp m e - m * (2 : ℚ) ^ e|
      ≤ (2 : ℚ) ^ F64.ulpExp m e / 2 := by
  unfold F64.keptSignificand
  generalize F64.ulpExp m e = t
  split
  case isTrue hte =>
    have hexact : ((m <<< (e - t).toNat : Nat) : ℚ) * (2 : ℚ) ^ t = m * (2 : ℚ) ^ e := by
      rw [Nat.shiftLeft_eq, two_zpow_eq_mul_pow hte]
      push_cast
      ring
    rw [hexact, sub_self, abs_zero]
    positivity
  case isFalse hte =>
    obtain ⟨hup, hdown⟩ := F64.roundShift_error m (t - e).toNat sticky
    have hpos : (0 : ℚ) < (2 : ℚ) ^ e := by positivity
    rw [two_zpow_eq_mul_pow (le_of_not_ge hte)]
    generalize (t - e).toNat = sh at *
    generalize F64.roundShift m sh sticky = q at *
    have hup' : 2 * ((q : ℚ) * 2 ^ sh) ≤ 2 * m + 2 ^ sh := by exact_mod_cast hup
    have hdown' : 2 * (m : ℚ) ≤ 2 * (q * 2 ^ sh) + 2 ^ sh := by exact_mod_cast hdown
    rw [abs_le]
    constructor <;> nlinarith

/-- m is a number of log2 m + 1 binary digits, so m * 2^e lies between powers of two. -/
theorem two_zpow_log2_le {m : Nat} (hm : m ≠ 0) (e : Int) :
    (2 : ℚ) ^ (e + (Nat.log2 m : Int)) ≤ m * (2 : ℚ) ^ e := by
  have h : (2 : ℚ) ^ Nat.log2 m ≤ m := by exact_mod_cast Nat.log2_self_le hm
  rw [zpow_add₀ (by norm_num), zpow_natCast, mul_comm]
  gcongr

theorem lt_two_zpow_log2 (m : Nat) (e : Int) : m * (2 : ℚ) ^ e < (2 : ℚ) ^ (e + (Nat.log2 m : Int) + 1) := by
  have h : (m : ℚ) < (2 : ℚ) ^ (Nat.log2 m + 1) := by exact_mod_cast Nat.lt_log2_self
  have hexp : (2 : ℚ) ^ (e + (Nat.log2 m : Int) + 1) = (2 : ℚ) ^ (Nat.log2 m + 1) * (2 : ℚ) ^ e := by
    rw [← zpow_natCast, ← zpow_add₀ (by norm_num)]
    congr 1
    push_cast
    ring
  rw [hexp]
  gcongr

theorem F64.keptSignificand_le (m : Nat) (e : Int) (sticky : Bool) : F64.keptSignificand m e sticky ≤ 2 ^ 53 := by
  have herr := (abs_le.mp (F64.keptSignificand_error m e sticky)).2
  have hvalue : m * (2 : ℚ) ^ e < 2 ^ 53 * (2 : ℚ) ^ F64.ulpExp m e := by
    refine (lt_two_zpow_log2 m e).trans_le ?_
    rw [← zpow_natCast, ← zpow_add₀ (by norm_num)]
    exact zpow_le_zpow_right₀ (by norm_num) (by unfold F64.ulpExp; push_cast; omega)
  have hpos : (0 : ℚ) < (2 : ℚ) ^ F64.ulpExp m e := by positivity
  have hlt : (F64.keptSignificand m e sticky : ℚ) < 2 ^ 53 + 1 :=
    lt_of_mul_lt_mul_right (by linarith) hpos.le
  exact Nat.lt_succ_iff.mp (by exact_mod_cast hlt)

/-- Above the subnormals the significand kept has its leading bit. -/
theorem F64.le_keptSignificand {m : Nat} (hm : m ≠ 0) {e : Int} (ht : -1074 < F64.ulpExp m e) (sticky : Bool) :
    2 ^ 52 ≤ F64.keptSignificand m e sticky := by
  have herr := (abs_le.mp (F64.keptSignificand_error m e sticky)).1
  have hvalue : 2 ^ 52 * (2 : ℚ) ^ F64.ulpExp m e ≤ m * (2 : ℚ) ^ e := by
    refine le_trans (le_of_eq ?_) (two_zpow_log2_le hm e)
    rw [← zpow_natCast, ← zpow_add₀ (by norm_num)]
    congr 1
    unfold F64.ulpExp at *
    push_cast
    omega
  have hpos : (0 : ℚ) < (2 : ℚ) ^ F64.ulpExp m e := by positivity
  have hlt : (2 ^ 52 : ℚ) < F64.keptSignificand m e sticky + 1 :=
    lt_of_mul_lt_mul_right (by linarith) hpos.le
  exact Nat.lt_succ_iff.mp (by exact_mod_cast hlt)

/-- x is a finite number within half of the last place of numbers below 2^k of q. -/
structure F64.Near (k : Int) (q : ℚ) (x : F64) : Prop where
  finite : F64.isFinite x = true
  error : |F64.toRat x - q| ≤ (2 : ℚ) ^ (k - 54)

theorem F64.near_withSign_zero (neg : Bool) (k : Int) : F64.Near k 0 (F64.withSign neg 0) := by
  refine ⟨F64.isFinite_withSign (by norm_num), ?_⟩
  rw [F64.toRat_withSign_zero, sub_self, abs_zero]
  positivity

/-- Rounding a value below 2^k, which is far from overflow, gives a finite number near to it (00_scope.md R17). -/
theorem F64.near_round (neg : Bool) (sticky : Bool) {m : Nat} {e k : Int} (hv : m * (2 : ℚ) ^ e < (2 : ℚ) ^ k)
    (hk : -1021 ≤ k) (hk' : k ≤ 1023) :
    F64.Near k (F64.signFactor neg * (m * (2 : ℚ) ^ e)) (F64.round neg m e sticky) := by
  rcases Nat.eq_zero_or_pos m with rfl | hpos
  · simpa using F64.near_withSign_zero neg k
  have hm : m ≠ 0 := Nat.ne_of_gt hpos
  have hlog : e + (Nat.log2 m : Int) < k :=
    (zpow_lt_zpow_iff_right₀ (by norm_num)).mp ((two_zpow_log2_le hm e).trans_lt hv)
  have hulp : -1074 ≤ F64.ulpExp m e ∧ F64.ulpExp m e ≤ k - 53 := by unfold F64.ulpExp; omega
  have herr := F64.keptSignificand_error m e sticky
  have hle := F64.keptSignificand_le m e sticky
  have hge := fun ht => F64.le_keptSignificand (e := e) hm ht sticky
  rw [F64.round_eq hm]
  generalize F64.keptSignificand m e sticky = q at *
  generalize F64.ulpExp m e = t at *
  have hfin : (t + 1074).toNat * 2 ^ 52 + q < 2047 * 2 ^ 52 := by omega
  have hE : (t + 1074).toNat = 0 ∨ 2 ^ 52 ≤ q := by
    rcases eq_or_lt_of_le hulp.1 with h | h
    · left; omega
    · exact Or.inr (hge h)
  rw [min_eq_left hfin.le]
  refine ⟨F64.isFinite_withSign hfin, ?_⟩
  have hexp : ((t + 1074).toNat : Int) - 1074 = t := by omega
  rw [F64.toRat_withSign hle hE hfin, hexp, ← mul_sub, abs_mul, F64.abs_signFactor, one_mul]
  calc |(q : ℚ) * (2 : ℚ) ^ t - m * (2 : ℚ) ^ e| ≤ (2 : ℚ) ^ t / 2 := herr
    _ = (2 : ℚ) ^ (t - 1) := by rw [zpow_sub_one₀ (by norm_num), div_eq_mul_inv]
    _ ≤ (2 : ℚ) ^ (k - 54) := zpow_le_zpow_right₀ (by norm_num) (by omega)

end Sys2Proof
end

section
/-! SUPPORT. The operations on finite numbers: each is near the exact result (00_scope.md R17), and bounds on the
operands give a bound on the result. -/

namespace Sys2Proof

section
variable {a b : F64} {k : Int}

/-- Both significands brought to the smaller exponent: their sum there is the exact sum. -/
theorem F64.smant_shift (x : F64) {e : Int} (h : e ≤ F64.expo x) :
    ((F64.smant x * (1 <<< (F64.expo x - e).toNat : Nat) : Int) : ℚ) * (2 : ℚ) ^ e = F64.toRat x := by
  rw [F64.toRat, two_zpow_eq_mul_pow h, Nat.one_shiftLeft]
  push_cast
  ring

theorem F64.near_add (ha : F64.isFinite a = true) (hb : F64.isFinite b = true)
    (hv : |F64.toRat a + F64.toRat b| < (2 : ℚ) ^ k) (hk : -1021 ≤ k) (hk' : k ≤ 1023) :
    F64.Near k (F64.toRat a + F64.toRat b) (F64.add a b) := by
  rw [← F64.smant_shift a (min_le_left _ (F64.expo b)), ← F64.smant_shift b (min_le_right (F64.expo a) _),
    ← add_mul, ← Int.cast_add] at hv ⊢
  simp only [F64.add, F64.isNaN_of_isFinite ha, F64.isNaN_of_isFinite hb, ha, hb, Bool.or_self, Bool.not_true,
    Bool.false_eq_true, if_false]
  generalize min (F64.expo a) (F64.expo b) = e at *
  generalize F64.smant a * _ + F64.smant b * _ = n at *
  split
  case isTrue hn =>
    rw [hn, Int.cast_zero, zero_mul]
    exact F64.near_withSign_zero _ k
  case isFalse hn =>
    rw [← F64.signFactor_mul_natAbs n, mul_assoc] at hv ⊢
    refine F64.near_round _ _ ?_ hk hk'
    rwa [abs_mul, F64.abs_signFactor, one_mul, abs_of_nonneg (by positivity)] at hv

theorem F64.near_mul (ha : F64.isFinite a = true) (hb : F64.isFinite b = true)
    (hv : |F64.toRat a * F64.toRat b| < (2 : ℚ) ^ k) (hk : -1021 ≤ k) (hk' : k ≤ 1023) :
    F64.Near k (F64.toRat a * F64.toRat b) (F64.mul a b) := by
  have hexact : F64.toRat a * F64.toRat b = F64.signFactor (F64.neg a != F64.neg b) *
      (((F64.mant a * F64.mant b : Nat) : ℚ) * (2 : ℚ) ^ (F64.expo a + F64.expo b)) := by
    rw [F64.toRat_eq, F64.toRat_eq, F64.signFactor_bne, zpow_add₀ (by norm_num)]
    push_cast
    ring
  rw [hexact] at hv ⊢
  simp only [F64.mul, F64.isNaN_of_isFinite ha, F64.isNaN_of_isFinite hb, ha, hb, Bool.or_self, Bool.not_true,
    Bool.false_eq_true, if_false]
  refine F64.near_round _ _ ?_ hk hk'
  rwa [abs_mul, F64.abs_signFactor, one_mul, abs_of_nonneg (by positivity)] at hv

/-- A quotient far from overflow is finite: the integer quotient that is rounded is at most the exact one. -/
theorem F64.isFinite_div (ha : F64.isFinite a = true) (hb : F64.isFinite b = true) (hb0 : F64.toRat b ≠ 0)
    (hv : |F64.toRat a| < (2 : ℚ) ^ k * |F64.toRat b|) (hk : -1021 ≤ k) (hk' : k ≤ 1023) :
    F64.isFinite (F64.div a b) = true := by
  have hmant := F64.mant_ne_zero_of_toRat_ne_zero hb0
  simp only [F64.div, F64.isNaN_of_isFinite ha, F64.isNaN_of_isFinite hb, F64.isZero_of_mant_ne_zero hmant, ha, hb,
    Bool.or_self, Bool.not_true, Bool.false_eq_true, if_false]
  refine (F64.near_round _ _ (k := k) ?_ hk hk').finite
  rw [F64.abs_toRat, F64.abs_toRat] at hv
  have hpos : (0 : ℚ) < F64.mant b := by exact_mod_cast Nat.pos_of_ne_zero hmant
  have hpow : (0 : ℚ) < (2 : ℚ) ^ F64.expo b := by positivity
  have hquot : (((F64.mant a <<< 110) / F64.mant b : Nat) : ℚ) ≤ F64.mant a * 2 ^ 110 / F64.mant b := by
    refine Nat.cast_div_le.trans (le_of_eq ?_)
    rw [Nat.shiftLeft_eq]
    push_cast
    rfl
  calc (((F64.mant a <<< 110) / F64.mant b : Nat) : ℚ) * (2 : ℚ) ^ (F64.expo a - 110 - F64.expo b)
      ≤ F64.mant a * 2 ^ 110 / F64.mant b * (2 : ℚ) ^ (F64.expo a - 110 - F64.expo b) := by gcongr
    _ = F64.mant a * (2 : ℚ) ^ F64.expo a / (F64.mant b * (2 : ℚ) ^ F64.expo b) := by
      rw [zpow_sub₀ (by norm_num), zpow_sub₀ (by norm_num), ← zpow_natCast]
      field_simp
      norm_num
    _ < (2 : ℚ) ^ k := (div_lt_iff₀ (by positivity)).mpr hv

end

theorem F64.near_ofInt {n : Int} {k : Int} (hv : |(n : ℚ)| < (2 : ℚ) ^ k) (hk : -1021 ≤ k) (hk' : k ≤ 1023) :
    F64.Near k n (F64.ofInt n) := by
  have hn : (n.natAbs : ℚ) * (2 : ℚ) ^ (0 : Int) < (2 : ℚ) ^ k := by
    simpa [Nat.cast_natAbs] using hv
  have h := F64.near_round (decide (n < 0)) false hn hk hk'
  rwa [zpow_zero, mul_one, F64.signFactor_mul_natAbs] at h

theorem F64.near_ofNat {n : Nat} {k : Int} (hv : (n : ℚ) < (2 : ℚ) ^ k) (hk : -1021 ≤ k) (hk' : k ≤ 1023) :
    F64.Near k n (F64.ofNat n) := by
  have h := F64.near_round false false (m := n) (e := 0) (k := k) (by simpa using hv) hk hk'
  simpa [F64.signFactor, F64.ofNat] using h

theorem F64.near_ofHalves {n : Nat} {k : Int} (hv : (n : ℚ) / 2 < (2 : ℚ) ^ k) (hk : -1021 ≤ k) (hk' : k ≤ 1023) :
    F64.Near k (n / 2) (F64.ofHalves n) := by
  have h := F64.near_round false false (m := n) (e := -1) (k := k) (by simpa [div_eq_mul_inv] using hv) hk hk'
  simpa [F64.signFactor, F64.ofHalves, div_eq_mul_inv] using h

/-! ### Bounds -/

/-- x is finite and at most B in magnitude. -/
structure F64.BoundedBy (B : ℚ) (x : F64) : Prop where
  finite : F64.isFinite x = true
  bound : |F64.toRat x| ≤ B

section
variable {A B C q : ℚ} {a b x : F64} {k : Int}

theorem F64.BoundedBy.mono (h : F64.BoundedBy A x) (hAB : A ≤ B) : F64.BoundedBy B x :=
  ⟨h.finite, h.bound.trans hAB⟩

theorem F64.Near.boundedBy (h : F64.Near k q x) (hq : |q| ≤ B) : F64.BoundedBy (B + (2 : ℚ) ^ (k - 54)) x := by
  refine ⟨h.finite, ?_⟩
  calc |F64.toRat x| = |q + (F64.toRat x - q)| := by rw [add_sub_cancel]
    _ ≤ |q| + |F64.toRat x - q| := abs_add_le _ _
    _ ≤ B + (2 : ℚ) ^ (k - 54) := add_le_add hq h.error

theorem F64.BoundedBy.add (ha : F64.BoundedBy A a) (hb : F64.BoundedBy B b) (hv : A + B < (2 : ℚ) ^ k)
    (hk : -1021 ≤ k) (hk' : k ≤ 1023) : F64.BoundedBy (A + B + (2 : ℚ) ^ (k - 54)) (F64.add a b) := by
  have hsum : |F64.toRat a + F64.toRat b| ≤ A + B := (abs_add_le _ _).trans (add_le_add ha.bound hb.bound)
  exact (F64.near_add ha.finite hb.finite (hsum.trans_lt hv) hk hk').boundedBy hsum

theorem F64.BoundedBy.mul (ha : F64.BoundedBy A a) (hb : F64.BoundedBy B b) (hv : A * B < (2 : ℚ) ^ k)
    (hk : -1021 ≤ k) (hk' : k ≤ 1023) : F64.BoundedBy (A * B + (2 : ℚ) ^ (k - 54)) (F64.mul a b) := by
  have hprod : |F64.toRat a * F64.toRat b| ≤ A * B := by
    rw [abs_mul]
    exact mul_le_mul ha.bound hb.bound (abs_nonneg _) ((abs_nonneg _).trans ha.bound)
  exact (F64.near_mul ha.finite hb.finite (hprod.trans_lt hv) hk hk').boundedBy hprod

end

theorem F64.boundedBy_zero : F64.BoundedBy 0 F64.zero := by
  have h : F64.toRat F64.zero = 0 := F64.toRat_withSign_zero false
  exact ⟨by decide, by rw [h, abs_zero]⟩

/-- A value held to [-1, 1] by its bits is at most 1 in magnitude (00_scope.md R19 P1). -/
theorem F64.boundedBy_one_of_inUnitBall {x : F64} (h : F64.inUnitBall x = true) : F64.BoundedBy 1 x := by
  have hbits : x.toNat % 2 ^ 63 ≤ 1023 * 2 ^ 52 := of_decide_eq_true h
  have hexp : F64.expField x ≤ 1023 := by unfold F64.expField; omega
  refine ⟨decide_eq_true (by omega), ?_⟩
  rw [F64.abs_toRat]
  rcases Nat.lt_or_ge (F64.expField x) 1023 with hlt | hge
  · have hmant : (F64.mant x : ℚ) ≤ 2 ^ 53 := by exact_mod_cast (F64.mant_lt x).le
    have hexpo : F64.expo x ≤ -53 := by unfold F64.expo; omega
    calc (F64.mant x : ℚ) * (2 : ℚ) ^ F64.expo x ≤ 2 ^ 53 * (2 : ℚ) ^ (-53 : Int) :=
          mul_le_mul hmant (zpow_le_zpow_right₀ (by norm_num) hexpo) (by positivity) (by positivity)
      _ = 1 := by norm_num
  · have hfrac : F64.fracField x = 0 := by unfold F64.expField at *; unfold F64.fracField; omega
    have hmant : F64.mant x = 2 ^ 52 := by rw [F64.mant, if_neg (by omega), hfrac, Nat.add_zero]
    have hexpo : F64.expo x = -52 := by unfold F64.expo; omega
    rw [hmant, hexpo]
    norm_num

theorem clipUnitBall_boundedBy_one (v : F64) : F64.BoundedBy 1 (clipUnitBall v) := by
  unfold clipUnitBall
  split
  case isTrue h => exact F64.boundedBy_one_of_inUnitBall h
  case isFalse => exact F64.boundedBy_zero.mono zero_le_one

/-- P1 of COS64 (00_scope.md R19). -/
theorem cos64_boundedBy_one {x : F64} (h : F64.isFinite x = true) : F64.BoundedBy 1 (cos64 x) := by
  by_cases hx : x = F64.zero
  · rw [cos64, if_pos hx]
    exact F64.boundedBy_one_of_inUnitBall (by decide)
  · rw [cos64, if_neg hx, if_pos h]
    exact clipUnitBall_boundedBy_one _

/-- P1 of SIN64 (00_scope.md R19). -/
theorem sin64_boundedBy_one {x : F64} (h : F64.isFinite x = true) : F64.BoundedBy 1 (sin64 x) := by
  by_cases hx : x = F64.zero
  · rw [sin64, if_pos hx]
    exact F64.boundedBy_zero.mono zero_le_one
  · rw [sin64, if_neg hx, if_pos h]
    exact clipUnitBall_boundedBy_one _

end Sys2Proof
end

section
/-! SUPPORT. The coefficients of a block as sums of samples times the values of one function of the position
(41_transform.md R185 to R187), and how such a sum is bounded. -/

namespace Sys2Proof.Machine

/-! ### The angles are finite -/

theorem twoPi_boundedBy : F64.BoundedBy 7 F64.twoPi := by
  have hmant : F64.mant F64.twoPi = 0x1921FB54442D18 := by decide +kernel
  have hexpo : F64.expo F64.twoPi = -50 := by decide +kernel
  refine ⟨by decide +kernel, ?_⟩
  rw [F64.abs_toRat, hmant, hexpo]
  norm_num

theorem pi_boundedBy : F64.BoundedBy 7 F64.pi := by
  have hmant : F64.mant F64.pi = 0x1921FB54442D18 := by decide +kernel
  have hexpo : F64.expo F64.pi = -51 := by decide +kernel
  refine ⟨by decide +kernel, ?_⟩
  rw [F64.abs_toRat, hmant, hexpo]
  norm_num

/-- Both angle functions divide a product of a constant and a number below 2^25 by a block size
(41_transform.md R185). -/
theorem isFinite_angle {c h : F64} {N : Nat} (hc : F64.BoundedBy 7 c) (hh : F64.BoundedBy (2 ^ 25) h) (hN : 0 < N)
    (hN' : N ≤ 4096) : F64.isFinite (F64.div (F64.mul c h) (F64.ofNat N)) = true := by
  have hprod := hc.mul hh (k := 28) (by norm_num) (by norm_num) (by norm_num)
  have hlt : (N : ℚ) < (2 : ℚ) ^ (13 : Int) := by
    have : (N : ℚ) ≤ 4096 := by exact_mod_cast hN'
    norm_num
    linarith
  have hnear := F64.near_ofNat hlt (by norm_num) (by norm_num)
  have hhalf : (1 / 2 : ℚ) ≤ F64.toRat (F64.ofNat N) := by
    have herr := (abs_le.mp hnear.error).1
    have hone : (1 : ℚ) ≤ N := by exact_mod_cast hN
    norm_num at herr
    linarith
  have hpos : (0 : ℚ) < F64.toRat (F64.ofNat N) := lt_of_lt_of_le (by norm_num) hhalf
  refine F64.isFinite_div (k := 30) hprod.finite hnear.finite hpos.ne' ?_ (by norm_num) (by norm_num)
  rw [abs_of_pos hpos]
  have hbound := hprod.bound
  norm_num at hbound ⊢
  linarith

theorem isFinite_angleF {i j N : Nat} (hi : i < N) (hj : j < N) (hN : N ≤ 4096) :
    F64.isFinite (angleF i j N) = true := by
  have hij : i * j ≤ 4095 * 4095 := Nat.mul_le_mul (by omega) (by omega)
  have hij' : ((i * j : Nat) : ℚ) ≤ 4095 * 4095 := by exact_mod_cast hij
  have hnear : F64.Near 24 (i * j : Nat) (F64.ofNat (i * j)) :=
    F64.near_ofNat (lt_of_le_of_lt hij' (by norm_num)) (by norm_num) (by norm_num)
  have hbound := hnear.boundedBy (B := 4095 * 4095) (by rwa [Nat.abs_cast])
  exact isFinite_angle twoPi_boundedBy (hbound.mono (by norm_num)) (by omega) hN

theorem isFinite_angleC {i j N : Nat} (hi : i < N) (hj : j < N) (hN : N ≤ 4096) :
    F64.isFinite (angleC i j N) = true := by
  have hij : i * (2 * j + 1) ≤ 4095 * 8191 := Nat.mul_le_mul (by omega) (by omega)
  have hij' : ((i * (2 * j + 1) : Nat) : ℚ) / 2 ≤ 4095 * 8191 / 2 := by
    have h : ((i * (2 * j + 1) : Nat) : ℚ) ≤ 4095 * 8191 := by exact_mod_cast hij
    linarith
  have hnear : F64.Near 24 ((i * (2 * j + 1) : Nat) / 2) (F64.ofHalves (i * (2 * j + 1))) :=
    F64.near_ofHalves (lt_of_le_of_lt hij' (by norm_num)) (by norm_num) (by norm_num)
  have hbound := hnear.boundedBy (B := 4095 * 8191 / 2) (by rwa [abs_of_nonneg (by positivity)])
  exact isFinite_angle pi_boundedBy (hbound.mono (by norm_num)) (by omega) hN

/-! ### Weighted sums -/

/-- The sum of the samples, each times the weight of its position, in increasing position from +0.0. -/
def weightedSum (w : Nat → F64) (x : List Int) : F64 :=
  x.zipIdx.foldl (fun acc u => F64.add acc (F64.mul (F64.ofInt u.1) (w u.2))) F64.zero

@[simp] theorem weightedSum_nil (w : Nat → F64) : weightedSum w [] = F64.zero := rfl

@[simp] theorem weightedSum_append_singleton (w : Nat → F64) (x : List Int) (u : Int) :
    weightedSum w (x ++ [u]) = F64.add (weightedSum w x) (F64.mul (F64.ofInt u) (w x.length)) := by
  simp [weightedSum, List.zipIdx_append]

theorem foldl_coef {α : Type} (f g : F64 → α → F64) (l : List α) (a b : F64) :
    l.foldl (fun acc u => (⟨f acc.re u, g acc.im u⟩ : Coef)) ⟨a, b⟩ = ⟨l.foldl f a, l.foldl g b⟩ := by
  induction l generalizing a b with
  | nil => rfl
  | cons u l ih => exact ih (f a u) (g b u)

/-- The two sums of R186 run beside each other. -/
theorem fourierCoef_eq (x : List Int) (i N : Nat) :
    fourierCoef x i N =
      ⟨weightedSum (fun j => cos64 (angleF i j N)) x, weightedSum (fun j => sin64 (angleF i j N)) x⟩ := by
  rw [fourierCoef, weightedSum, weightedSum, ← foldl_coef]

theorem cosineCoef_eq (x : List Int) (i N : Nat) :
    cosineCoef x i N = ⟨weightedSum (fun j => cos64 (angleC i j N)) x, F64.zero⟩ := rfl

/-- A centred sample times a value in [-1, 1] is at most 128 in magnitude, up to the roundings of the sample and of the
product. -/
theorem sampleTerm_boundedBy {u : Int} {c : F64} (hu : -128 ≤ u ∧ u ≤ 127) (hc : F64.BoundedBy 1 c) :
    F64.BoundedBy (128 + (2 : ℚ) ^ (-44 : Int)) (F64.mul (F64.ofInt u) c) := by
  have habs : |(u : ℚ)| ≤ 128 := by
    rw [abs_le]
    constructor
    · exact_mod_cast hu.1
    · exact_mod_cast hu.2.trans (by norm_num : (127 : Int) ≤ 128)
  have hsample := (F64.near_ofInt (k := 8) (habs.trans_lt (by norm_num)) (by norm_num) (by norm_num)).boundedBy habs
  have hprod := hsample.mul hc (k := 8) (by norm_num) (by norm_num) (by norm_num)
  exact hprod.mono (by norm_num)

/-- Every further sample adds at most 128 + 2^-33 to the magnitude of the sum: its own term, and the rounding of a sum
below 2^20 (41_transform.md R189). -/
theorem weightedSum_boundedBy {w : Nat → F64} {x : List Int} (hw : ∀ j, j < x.length → F64.BoundedBy 1 (w j))
    (hx : ∀ u ∈ x, -128 ≤ u ∧ u ≤ 127) (hlen : x.length ≤ 4096) :
    F64.BoundedBy (x.length * (128 + (2 : ℚ) ^ (-33 : Int))) (weightedSum w x) := by
  induction x using List.reverseRecOn with
  | nil => simpa using F64.boundedBy_zero
  | append_singleton x u ih =>
    rw [List.length_append, List.length_singleton] at hw hlen ⊢
    have hsum := ih (fun j hj => hw j (by omega)) (fun v hv => hx v (by simp [hv])) (by omega)
    have hterm := sampleTerm_boundedBy (hx u (by simp)) (hw x.length (by omega))
    have hcount : (x.length : ℚ) ≤ 4095 := by exact_mod_cast (by omega : x.length ≤ 4095)
    rw [weightedSum_append_singleton]
    refine (hsum.add hterm (k := 20) ?_ (by norm_num) (by norm_num)).mono ?_
    · norm_num
      linarith
    · push_cast
      norm_num
      linarith

end Sys2Proof.Machine
end

section
/-! SUPPORT. The indices the band filter keeps (41_transform.md R190). -/

namespace Sys2Proof.Machine

/-- With INC = 1 the filter keeps the indices from FS to FE (41_transform.md R190). -/
theorem keepIndex_of_inclusive {s : State} (h : s.regs.filtInclusive = true) (i : Nat) :
    keepIndex s i = true ↔ s.regs.filtStart.toNat ≤ i ∧ i ≤ s.regs.filtEnd.toNat := by
  simp [keepIndex, h]

/-- With INC = 0 the filter keeps the indices up to FS and from FE on (41_transform.md R190). -/
theorem keepIndex_of_not_inclusive {s : State} (h : s.regs.filtInclusive = false) (i : Nat) :
    keepIndex s i = true ↔ i ≤ s.regs.filtStart.toNat ∨ s.regs.filtEnd.toNat ≤ i := by
  simp [keepIndex, h]

end Sys2Proof.Machine
end

section
/-! PROOFS. The statements about the coefficients' bounds and about the band filter (41_transform.md R189, R190). -/

namespace Sys2Proof.Machine

/-- Settles O35: each part of a coefficient is a sum of samples weighted by cosines or sines of finite angles, or
+0.0. -/
theorem coefficientsAreBounded : Obligations.CoefficientsAreBounded := by
  unfold Obligations.CoefficientsAreBounded
  intro bs x i hi hlen hx
  have hbound {w : Nat → F64} (hw : ∀ j, j < x.length → F64.BoundedBy 1 (w j)) :
      F64.BoundedBy (128 * x.length * (1 + (2 : ℚ) ^ (-40 : ℤ))) (weightedSum w x) :=
    (weightedSum_boundedBy hw hx hlen).mono (le_of_eq (by norm_num; ring))
  suffices h : F64.BoundedBy (128 * x.length * (1 + (2 : ℚ) ^ (-40 : ℤ))) (blockCoef bs x i x.length).re ∧
      F64.BoundedBy (128 * x.length * (1 + (2 : ℚ) ^ (-40 : ℤ))) (blockCoef bs x i x.length).im from
    ⟨h.1.finite, h.2.finite, h.1.bound, h.2.bound⟩
  cases bs with
  | fourier =>
    simp only [blockCoef, fourierCoef_eq]
    constructor
    · exact hbound fun j hj => cos64_boundedBy_one (isFinite_angleF hi hj hlen)
    · exact hbound fun j hj => sin64_boundedBy_one (isFinite_angleF hi hj hlen)
  | cosine =>
    simp only [blockCoef, cosineCoef_eq]
    constructor
    · exact hbound fun j hj => cos64_boundedBy_one (isFinite_angleC hi hj hlen)
    · exact F64.boundedBy_zero.mono (by positivity)

/-- Settles O38: at reset the filter keeps the indices from 0 to 0xFFFF. -/
theorem bandFilterKeeps : Obligations.BandFilterKeeps := by
  unfold Obligations.BandFilterKeeps
  intro s i
  refine ⟨fun hinc => keepIndex_of_inclusive hinc i, fun hinc => keepIndex_of_not_inclusive hinc i,
    ?reset, ?none, ?all⟩
  case reset =>
    intro hi
    exact (keepIndex_of_inclusive (s := State.reset) rfl i).mpr ⟨Nat.zero_le i, Nat.le_of_lt_succ hi⟩
  case none =>
    intro hinc hempty
    rw [← Bool.not_eq_true, keepIndex_of_inclusive hinc]
    omega
  case all =>
    intro hinc hall
    rw [keepIndex_of_not_inclusive hinc]
    omega

end Sys2Proof.Machine
end

section
/-! SUPPORT. The runs of a line: the samples that differ from the one before (42_codec.md R215). -/

namespace Sys2Proof.Machine

/-- A run after `prev` starts at each sample that differs from the one before it, which for the first is `prev`. -/
theorem mem_runsFrom_iff {p q : Nat} {prev c : Color} {x : List Color} :
    (c, q) ∈ runsFrom p prev x ↔ ∃ i, q = p + i ∧ x[i]? = some c ∧ (prev :: x)[i]? ≠ some c := by
  induction x generalizing p prev with
  | nil => simp [runsFrom]
  | cons d x ih =>
    rw [← Nat.or_exists_add_one]
    simp only [List.getElem?_cons_succ, List.getElem?_cons_zero, Option.some.injEq, ne_eq, Nat.add_zero,
      ← Nat.add_assoc, Nat.add_right_comm p _ 1]
    by_cases hd : d = prev
    · rw [runsFrom, if_pos hd, ih, hd]
      have hnot : ¬(q = p ∧ prev = c ∧ ¬prev = c) := by tauto
      simp only [hnot, false_or, ne_eq]
    · rw [runsFrom, if_neg hd, List.mem_cons, ih, Prod.mk.injEq]
      have hhead : (c = d ∧ q = p) ↔ (q = p ∧ d = c ∧ ¬prev = c) := by
        constructor
        · rintro ⟨rfl, rfl⟩
          exact ⟨rfl, rfl, fun h => hd h.symm⟩
        · rintro ⟨rfl, rfl, -⟩
          exact ⟨rfl, rfl⟩
      rw [hhead]

/-- A run starts at position 0 and where the color differs from the one before, and has the color of its start. -/
theorem mem_runsOf_iff {q : Nat} {c : Color} {x : List Color} :
    (c, q) ∈ runsOf x ↔ x[q]? = some c ∧ (q = 0 ∨ x[q - 1]? ≠ some c) := by
  cases x with
  | nil => simp [runsOf]
  | cons d x =>
    rw [runsOf, List.mem_cons, mem_runsFrom_iff]
    cases q with
    | zero => simp [eq_comm, Nat.add_comm 1]
    | succ q => simp [Nat.add_comm 1]

theorem le_of_mem_runsFrom {p : Nat} {prev : Color} {x : List Color} {r : Color × Nat} (h : r ∈ runsFrom p prev x) :
    p ≤ r.2 := by
  obtain ⟨i, hi, -⟩ := mem_runsFrom_iff.1 h
  omega

/-- The starts after `prev` rise strictly. -/
theorem runsFrom_pairwise (p : Nat) (prev : Color) (x : List Color) :
    ((runsFrom p prev x).map Prod.snd).Pairwise (· < ·) := by
  induction x generalizing p prev with
  | nil => exact List.Pairwise.nil
  | cons c x ih =>
    by_cases hc : c = prev
    · rw [runsFrom, if_pos hc]
      exact ih (p + 1) prev
    · rw [runsFrom, if_neg hc, List.map_cons, List.pairwise_cons]
      refine ⟨fun q hq => ?_, ih (p + 1) c⟩
      obtain ⟨r, hr, rfl⟩ := List.mem_map.1 hq
      exact le_of_mem_runsFrom hr

theorem runsOf_pairwise (x : List Color) : ((runsOf x).map Prod.snd).Pairwise (· < ·) := by
  cases x with
  | nil => exact List.Pairwise.nil
  | cons c x =>
    rw [runsOf, List.map_cons, List.pairwise_cons]
    refine ⟨fun q hq => ?_, runsFrom_pairwise 1 c x⟩
    obtain ⟨r, hr, rfl⟩ := List.mem_map.1 hq
    exact le_of_mem_runsFrom hr

theorem head?_starts_runsOf {x : List Color} (hx : x ≠ []) : ((runsOf x).map Prod.snd).head? = some 0 := by
  cases x with
  | nil => exact absurd rfl hx
  | cons c x => rfl

theorem runsOf_length_pos {x : List Color} (hx : x ≠ []) : 0 < (runsOf x).length := by
  cases x with
  | nil => exact absurd rfl hx
  | cons c x => exact Nat.succ_pos _

theorem runsFrom_length_le (p : Nat) (prev : Color) (x : List Color) : (runsFrom p prev x).length ≤ x.length := by
  induction x generalizing p prev with
  | nil => exact le_rfl
  | cons c x ih =>
    have hsame := ih (p + 1) prev
    have hnew := ih (p + 1) c
    rw [runsFrom]
    split <;> simp only [List.length_cons] <;> omega

theorem runsOf_length_le (x : List Color) : (runsOf x).length ≤ x.length := by
  cases x with
  | nil => exact le_rfl
  | cons c x => exact Nat.succ_le_succ (runsFrom_length_le 1 c x)

theorem lt_length_of_mem_runsOf {x : List Color} {r : Color × Nat} (h : r ∈ runsOf x) : r.2 < x.length :=
  (List.getElem?_eq_some_iff.1 (mem_runsOf_iff.1 h).1).1

/-- Every run has a color of the line. -/
theorem color_mem_of_mem_runsOf {x : List Color} {r : Color × Nat} (h : r ∈ runsOf x) : r.1 ∈ x :=
  List.mem_of_getElem? (mem_runsOf_iff.1 h).1

/-- A line whose samples all have one color is one run. -/
theorem runsOf_length_of_forall_eq {x : List Color} {c : Color} (hx : x ≠ []) (h : ∀ d ∈ x, d = c) :
    (runsOf x).length = 1 := by
  cases x with
  | nil => exact absurd rfl hx
  | cons d x =>
    have hnone : runsFrom 1 d x = [] := by
      refine List.eq_nil_iff_forall_not_mem.2 fun r hr => ?_
      obtain ⟨i, -, hi, hne⟩ := mem_runsFrom_iff.1 hr
      have hlt : i < (d :: x).length := by
        have := (List.getElem?_eq_some_iff.1 hi).1
        rw [List.length_cons]
        omega
      rw [List.getElem?_eq_getElem hlt, h _ (List.getElem_mem hlt), ← h r.1
        (List.mem_cons_of_mem d (List.mem_of_getElem? hi))] at hne
      exact hne rfl
    rw [runsOf, hnone]
    rfl

/-- Settles O52: each clause reads off where a run starts. -/
theorem runsCoverTheLine : Obligations.RunsCoverTheLine := by
  unfold Obligations.RunsCoverTheLine
  intro x hx
  refine ⟨head?_starts_runsOf hx, runsOf_pairwise x, fun r hr => (mem_runsOf_iff.1 hr).1, fun p hp hlt => ?_⟩
  have hstart : p ∈ (runsOf x).map Prod.snd ↔ ∃ c, (c, p) ∈ runsOf x := by simp
  simp only [hstart, mem_runsOf_iff, List.getElem?_eq_getElem hlt, Option.some.injEq, exists_eq_left', hp.ne', false_or]
  exact ne_comm

end Sys2Proof.Machine
end

section
/-! SUPPORT. The leaves of a line's Huffman tree: every round of the merge loop keeps the leaves of the queue, and the
queue starts with one leaf for each color of the line (42_codec.md R211, R212). -/

namespace Sys2Proof.Machine

/-- The colors at the leaves, left to right: those the codebook lists (`map_fst_codebook`). -/
def Tree.leaves : Tree → List Color
  | .leaf c => [c]
  | .node l r => l.leaves ++ r.leaves

theorem Tree.one_le_length_leaves (t : Tree) : 1 ≤ t.leaves.length := by
  induction t with
  | leaf c => exact le_rfl
  | node l r ihl ihr =>
    rw [Tree.leaves, List.length_append]
    omega

theorem map_fst_codesBelow (t : Tree) (k : Code) : (codesBelow t k).map Prod.fst = t.leaves := by
  induction t generalizing k with
  | leaf c => rfl
  | node l r ihl ihr => rw [codesBelow, List.map_append, ihl, ihr, Tree.leaves]

theorem map_fst_codebook (t : Tree) : (codebook t).map Prod.fst = t.leaves := map_fst_codesBelow t _

/-! ### The colors of a line -/

theorem mem_distinctFrom_iff {seen x : List Color} {c : Color} : c ∈ distinctFrom seen x ↔ c ∈ x ∧ c ∉ seen := by
  induction x generalizing seen with
  | nil => simp [distinctFrom]
  | cons d x ih =>
    by_cases hd : d ∈ seen
    · rw [distinctFrom, if_pos hd, ih, List.mem_cons]
      have hne : c ∉ seen → c ≠ d := fun hc h => hc (h ▸ hd)
      tauto
    · rw [distinctFrom, if_neg hd, List.mem_cons, ih, List.mem_cons, List.mem_cons]
      have hnot : c = d → c ∉ seen := fun h => h ▸ hd
      tauto

theorem distinctFrom_nodup (seen x : List Color) : (distinctFrom seen x).Nodup := by
  induction x generalizing seen with
  | nil => exact List.nodup_nil
  | cons d x ih =>
    by_cases hd : d ∈ seen
    · rw [distinctFrom, if_pos hd]
      exact ih seen
    · rw [distinctFrom, if_neg hd, List.nodup_cons]
      exact ⟨fun h => (mem_distinctFrom_iff.1 h).2 List.mem_cons_self, ih _⟩

@[simp] theorem mem_distinctColors_iff {x : List Color} {c : Color} : c ∈ distinctColors x ↔ c ∈ x := by
  simp [distinctColors, mem_distinctFrom_iff]

theorem distinctColors_nodup (x : List Color) : (distinctColors x).Nodup := distinctFrom_nodup [] x

theorem length_distinctColors (x : List Color) : (distinctColors x).length = x.toFinset.card := by
  rw [← List.toFinset_card_of_nodup (distinctColors_nodup x)]
  congr 1
  ext c
  simp

/-! ### The queue -/

/-- The leaves of all the trees of a queue. -/
def queueLeaves (q : List QItem) : List Color := q.flatMap fun a => a.tree.leaves

@[simp] theorem queueLeaves_cons (a : QItem) (q : List QItem) :
    queueLeaves (a :: q) = a.tree.leaves ++ queueLeaves q :=
  List.flatMap_cons

theorem queueLeaves_perm {q q' : List QItem} (h : q.Perm q') : (queueLeaves q).Perm (queueLeaves q') :=
  h.flatMap_right _

theorem queueLeaves_leavesFrom (x : List Color) (n : Nat) (cs : List Color) : queueLeaves (leavesFrom x n cs) = cs := by
  induction cs generalizing n with
  | nil => rfl
  | cons c cs ih => rw [leavesFrom, queueLeaves_cons, ih, Tree.leaves, List.singleton_append]

/-- Taking the least element out of a queue loses no element. -/
theorem popMin_perm (q : QItem) (rs : List QItem) : ((popMin q rs).1 :: (popMin q rs).2).Perm (q :: rs) := by
  induction rs generalizing q with
  | nil => exact List.Perm.refl _
  | cons r rs ih =>
    rw [popMin]
    split
    · exact (ih r).cons q
    · exact (List.Perm.swap _ _ _).trans ((ih r).cons q)

/-- With fuel for every element but one, the merge loop makes one tree of all the leaves of the queue. -/
theorem leaves_mergeLoop_perm {fuel : Nat} (next : Nat) {q : QItem} {rs : List QItem} (h : rs.length ≤ fuel) :
    (mergeLoop fuel next q rs).leaves.Perm (queueLeaves (q :: rs)) := by
  induction fuel generalizing next q rs with
  | zero =>
    obtain rfl : rs = [] := List.length_eq_zero_iff.1 (Nat.le_zero.1 h)
    simp [mergeLoop, queueLeaves]
  | succ fuel ih =>
    have hfirst := popMin_perm q rs
    rw [mergeLoop]
    cases hrest : (popMin q rs).2 with
    | nil =>
      rw [hrest] at hfirst
      simpa [queueLeaves] using queueLeaves_perm hfirst
    | cons b bs =>
      rw [hrest] at hfirst
      have hsecond := popMin_perm b bs
      have hlen : (popMin b bs).2.length ≤ fuel := by
        have h1 := hfirst.length_eq
        have h2 := hsecond.length_eq
        simp only [List.length_cons] at h1 h2
        omega
      have hnode : queueLeaves (mergeItems (popMin q rs).1 (popMin b bs).1 next :: (popMin b bs).2) =
          queueLeaves ((popMin q rs).1 :: (popMin b bs).1 :: (popMin b bs).2) := by
        simp [mergeItems, Tree.leaves, List.append_assoc]
      have hround := ih (next + 1) (q := mergeItems (popMin q rs).1 (popMin b bs).1 next) hlen
      rw [hnode] at hround
      exact hround.trans ((queueLeaves_perm (hsecond.cons _)).trans (queueLeaves_perm hfirst))

/-! ### The tree of a line -/

/-- The tree has one leaf for each color of the line. -/
theorem leaves_perm_distinctColors {x : List Color} {t : Tree} (h : buildTree x = some t) :
    t.leaves.Perm (distinctColors x) := by
  have hqueue := queueLeaves_leavesFrom x 0 (distinctColors x)
  unfold buildTree at h
  cases hq : leavesFrom x 0 (distinctColors x) with
  | nil => simp [hq] at h
  | cons q rs =>
    rw [hq] at h hqueue
    obtain rfl := Option.some.inj h
    rw [← hqueue]
    exact leaves_mergeLoop_perm _ (Nat.le_succ _)

theorem mem_leaves_iff {x : List Color} {t : Tree} (h : buildTree x = some t) {c : Color} : c ∈ t.leaves ↔ c ∈ x :=
  (leaves_perm_distinctColors h).mem_iff.trans mem_distinctColors_iff

theorem length_leaves {x : List Color} {t : Tree} (h : buildTree x = some t) : t.leaves.length = x.toFinset.card :=
  (leaves_perm_distinctColors h).length_eq.trans (length_distinctColors x)

/-- Every line of samples has a tree. -/
theorem exists_buildTree {x : List Color} (hx : x ≠ []) : ∃ t, buildTree x = some t := by
  obtain ⟨c, hc⟩ := List.exists_mem_of_ne_nil x hx
  have hqueue := queueLeaves_leavesFrom x 0 (distinctColors x)
  unfold buildTree
  cases hq : leavesFrom x 0 (distinctColors x) with
  | cons q rs => exact ⟨_, rfl⟩
  | nil =>
    rw [hq] at hqueue
    have hmem := mem_distinctColors_iff.2 hc
    rw [← hqueue] at hmem
    cases hmem

theorem ne_nil_of_buildTree {x : List Color} {t : Tree} (h : buildTree x = some t) : x ≠ [] := by
  rintro rfl
  cases h

end Sys2Proof.Machine
end

section
/-! SUPPORT. A code is the path to its leaf, root edge first, and the codes of different colors part ways
(42_codec.md R213, R216, R225). -/

namespace Sys2Proof.Machine

/-- The color of the leaf at the end of a path (0 left, 1 right): the colors and codes of the codebook
(`leafAt_codeBits_codeOf`). -/
def leafAt : Tree → List Bool → Option Color
  | .leaf c, [] => some c
  | .node l _, false :: bits => leafAt l bits
  | .node _ r, true :: bits => leafAt r bits
  | _, _ => none

/-- No path to a leaf goes on to another leaf. -/
theorem eq_nil_of_leafAt_append {t : Tree} {bits more : List Bool} {a b : Color} (ha : leafAt t bits = some a)
    (hb : leafAt t (bits ++ more) = some b) : more = [] := by
  induction t generalizing bits with
  | leaf c =>
    cases bits with
    | cons d bits => cases ha
    | nil =>
      cases more with
      | nil => rfl
      | cons d more => cases hb
  | node l r ihl ihr =>
    cases bits with
    | nil => cases ha
    | cons d bits =>
      cases d with
      | false => exact ihl ha hb
      | true => exact ihr ha hb

/-- The code of a child is its parent's with one more bit. -/
theorem codeBits_child (v n : Nat) (b : Bool) :
    codeBits { value := Nat.bit b v, length := n + 1 } = codeBits { value := v, length := n } ++ [b] := by
  simp only [codeBits, List.range_succ, List.map_append, List.map_singleton, Nat.add_sub_cancel, Nat.sub_self,
    Nat.testBit_bit_zero]
  congr 1
  refine List.map_congr_left fun i hi => ?_
  have hsub : n - i = (n - 1 - i) + 1 := by
    have := List.mem_range.1 hi
    omega
  rw [hsub, Nat.testBit_bit_succ]

/-- A code below a node is the node's own code followed by the path from the node to the leaf. -/
theorem exists_path_of_mem_codesBelow {t : Tree} {k k' : Code} {c : Color} (h : (c, k') ∈ codesBelow t k) :
    ∃ bits, codeBits k' = codeBits k ++ bits ∧ leafAt t bits = some c := by
  induction t generalizing k with
  | leaf d =>
    obtain ⟨rfl, rfl⟩ := Prod.mk.inj (List.mem_singleton.1 h)
    exact ⟨[], (List.append_nil _).symm, rfl⟩
  | node l r ihl ihr =>
    rcases List.mem_append.1 h with hl | hr
    · obtain ⟨bits, hbits, hleaf⟩ := ihl hl
      rw [← Nat.bit_false_apply, codeBits_child] at hbits
      exact ⟨false :: bits, by simpa using hbits, hleaf⟩
    · obtain ⟨bits, hbits, hleaf⟩ := ihr hr
      rw [← Nat.bit_true_apply, codeBits_child] at hbits
      exact ⟨true :: bits, by simpa using hbits, hleaf⟩

theorem mem_codebook_codeOf {t : Tree} {c : Color} (h : c ∈ t.leaves) : (c, codeOf t c) ∈ codebook t := by
  rw [← map_fst_codebook] at h
  obtain ⟨e, he, rfl⟩ := List.mem_map.1 h
  have hsome : ((codebook t).lookup e.1).isSome := List.lookup_isSome_iff.2 ⟨e, he, beq_self_eq_true _⟩
  obtain ⟨k, hk⟩ := Option.isSome_iff_exists.1 hsome
  obtain ⟨before, after, hsplit, -⟩ := List.lookup_eq_some_iff.1 hk
  rw [codeOf, hk, hsplit]
  exact List.mem_append_right before List.mem_cons_self

/-- The code of a color is the path to its leaf. -/
theorem leafAt_codeBits_codeOf {t : Tree} {c : Color} (h : c ∈ t.leaves) :
    leafAt t (codeBits (codeOf t c)) = some c := by
  obtain ⟨bits, hbits, hleaf⟩ := exists_path_of_mem_codesBelow (mem_codebook_codeOf h)
  rwa [hbits]

/-- Settles O50: a code that another one continues would be a path that goes on below a leaf. -/
theorem codesArePrefixFree : Obligations.CodesArePrefixFree := by
  unfold Obligations.CodesArePrefixFree
  intro x t ht
  rw [map_fst_codebook]
  refine ⟨fun c => (mem_leaves_iff ht).symm, (leaves_perm_distinctColors ht).nodup_iff.2 (distinctColors_nodup x), ?_⟩
  rintro a b ha hb hne ⟨more, hmore⟩
  have hleafA := leafAt_codeBits_codeOf ((mem_leaves_iff ht).2 ha)
  have hleafB := leafAt_codeBits_codeOf ((mem_leaves_iff ht).2 hb)
  rw [← hmore] at hleafB
  rw [eq_nil_of_leafAt_append hleafA hleafB, List.append_nil, hleafA] at hleafB
  exact hne (Option.some.inj hleafB)

end Sys2Proof.Machine
end

section
/-! SUPPORT. The three parts of a line buffer and their sizes (42_codec.md R214, R217 to R219). -/

namespace Sys2Proof.Machine

theorem encodeLine_of_buildTree {x : List Color} {t : Tree} (h : buildTree x = some t) :
    encodeLine x = { bytes := treeBytes t ++ packLsb (runBits t (runsOf x)) ++ startBytes (runsOf x)
                     runs := (runsOf x).length
                     leaves := (distinctColors x).length } := by
  rw [encodeLine, h]

theorem encodeLine_runs {x : List Color} (hx : x ≠ []) : (encodeLine x).runs = (runsOf x).length := by
  obtain ⟨t, ht⟩ := exists_buildTree hx
  rw [encodeLine_of_buildTree ht]

theorem encodeLine_leaves {x : List Color} (hx : x ≠ []) : (encodeLine x).leaves = x.toFinset.card := by
  obtain ⟨t, ht⟩ := exists_buildTree hx
  rw [encodeLine_of_buildTree ht, length_distinctColors]

@[simp] theorem chunksOf_nil {α : Type} (n fuel : Nat) : chunksOf n fuel ([] : List α) = [] := by
  cases fuel <;> rfl

theorem chunksOf_of_ne_nil {α : Type} (n fuel : Nat) {l : List α} (h : l ≠ []) :
    chunksOf n (fuel + 1) l = l.take n :: chunksOf n fuel (l.drop n) := by
  rw [chunksOf, if_neg (by simpa using h)]

/-- There are ceil(len / n) pieces of n elements. -/
theorem length_chunksOf {α : Type} {n fuel : Nat} {l : List α} (hn : 0 < n) (hf : l.length ≤ fuel) :
    (chunksOf n fuel l).length = (l.length + (n - 1)) / n := by
  induction fuel generalizing l with
  | zero =>
    rw [List.length_eq_zero_iff.1 (Nat.le_zero.1 hf)]
    exact (Nat.div_eq_of_lt (by simpa using hn)).symm
  | succ fuel ih =>
    rcases List.eq_nil_or_concat l with rfl | ⟨_, _, hl⟩
    · exact (Nat.div_eq_of_lt (by simpa using hn)).symm
    have hne : l ≠ [] := by simp [hl]
    have hpos : 0 < l.length := List.length_pos_iff.2 hne
    have hdrop : (l.drop n).length ≤ fuel := by
      rw [List.length_drop]
      omega
    rw [chunksOf_of_ne_nil n fuel hne, List.length_cons, ih hdrop, List.length_drop,
      ← Nat.add_div_right _ hn]
    rcases Nat.le_total n l.length with hle | hle
    · congr 1
      omega
    · have hone : ∀ m, m < n → (m + n) / n = 1 := fun m hm => by
        rw [Nat.add_div_right _ hn, Nat.div_eq_of_lt hm]
      rw [Nat.sub_eq_zero_of_le hle, hone _ (by omega), show l.length + (n - 1) = (l.length - 1) + n by omega,
        hone _ (by omega)]

/-- A leaf takes 25 bits and a tree of K leaves has K - 1 nodes of one bit. -/
theorem length_treeBits (t : Tree) : (treeBits t).length + 1 = 26 * t.leaves.length := by
  induction t with
  | leaf c => simp [treeBits, colorBits, Tree.leaves]
  | node l r ihl ihr =>
    simp only [treeBits, Tree.leaves, List.length_cons, List.length_append]
    omega

theorem length_treeBytes (t : Tree) : (treeBytes t).length = 4 * (((treeBits t).length + 31) / 32) := by
  have hword : (treeBytes t).length = 4 * (chunksOf 32 (treeBits t).length (treeBits t)).length := by
    simp [treeBytes, List.length_flatMap, bytesBE, Nat.mul_comm]
  rw [hword, length_chunksOf (by omega) le_rfl]

theorem length_packLsb (l : List Bool) : (packLsb l).length = (l.length + 7) / 8 := by
  rw [packLsb, List.length_map, length_chunksOf (by omega) le_rfl]

@[simp] theorem length_startBytes (runs : List (Color × Nat)) : (startBytes runs).length = runs.length :=
  List.length_map ..

/-- A tree that is one leaf has no code bits: its only code is the root's. -/
theorem runBits_leaf (c : Color) (runs : List (Color × Nat)) : runBits (.leaf c) runs = [] := by
  have hcode : ∀ d, codeOf (.leaf c) d = { value := 0, length := 0 } := fun d => by
    cases hd : d == c <;> simp [codeOf, codebook, codesBelow, List.lookup, hd]
  simp [runBits, hcode, codeBits]

theorem exists_eq_leaf_of_length_leaves {t : Tree} (h : t.leaves.length = 1) : ∃ c, t = .leaf c := by
  cases t with
  | leaf c => exact ⟨c, rfl⟩
  | node l r =>
    have hl := l.one_le_length_leaves
    have hr := r.one_le_length_leaves
    rw [Tree.leaves, List.length_append] at h
    omega

theorem length_encodeLine_bytes {x : List Color} {t : Tree} (h : buildTree x = some t) :
    (encodeLine x).bytes.length =
      4 * (((treeBits t).length + 31) / 32) + ((runBits t (runsOf x)).length + 7) / 8 + (runsOf x).length := by
  rw [encodeLine_of_buildTree h]
  simp only [List.length_append, length_treeBytes, length_packLsb, length_startBytes]

/-- Settles O51: a tree of K leaves has 26K - 1 bits. -/
theorem bufferSize : Obligations.BufferSize := by
  unfold Obligations.BufferSize
  intro x t ht
  have hx := ne_nil_of_buildTree ht
  have hleaves := (encodeLine_leaves hx).trans (length_leaves ht).symm
  have hbits : (treeBits t).length = 26 * (encodeLine x).leaves - 1 := by
    have := length_treeBits t
    omega
  refine ⟨?size, encodeLine_leaves hx, fun hone => ?oneColor⟩
  case size => rw [length_encodeLine_bytes ht, hbits, encodeLine_runs hx]
  case oneColor =>
    obtain ⟨c, hc⟩ := Finset.card_eq_one.1 ((encodeLine_leaves hx).symm.trans hone)
    have hall : ∀ d ∈ x, d = c := fun d hd => by simpa [hc] using List.mem_toFinset.2 hd
    have hruns := runsOf_length_of_forall_eq hx hall
    obtain ⟨e, rfl⟩ := exists_eq_leaf_of_length_leaves (hleaves.symm.trans hone)
    refine ⟨(encodeLine_runs hx).trans hruns, ?_⟩
    rw [length_encodeLine_bytes ht, hbits, hone, hruns, runBits_leaf]
    rfl

end Sys2Proof.Machine
end

section
/-! SUPPORT. Numbers made of bits, most or least significant first (42_codec.md R214, R217). -/

namespace Sys2Proof.Machine

theorem natOfBitsMsb_concat (l : List Bool) (b : Bool) : natOfBitsMsb (l ++ [b]) = Nat.bit b (natOfBitsMsb l) := by
  rw [natOfBitsMsb, List.foldl_append, Nat.bit_val]
  rfl

theorem testBit_natOfBitsMsb (l : List Bool) (j : Nat) : (natOfBitsMsb l).testBit j = l.reverse[j]?.getD false := by
  induction l using List.reverseRecOn generalizing j with
  | nil => simp [natOfBitsMsb]
  | append_singleton l b ih =>
    rw [natOfBitsMsb_concat]
    cases j with
    | zero => simp
    | succ j => simp [Nat.testBit_bit_succ, ih]

theorem testBit_natOfBitsLsb (l : List Bool) (j : Nat) : (natOfBitsLsb l).testBit j = l[j]?.getD false := by
  induction l generalizing j with
  | nil => simp [natOfBitsLsb]
  | cons b l ih =>
    rw [natOfBitsLsb, Nat.add_comm, ← Nat.bit_val]
    cases j with
    | zero => simp
    | succ j => simp [Nat.testBit_bit_succ, ih]

/-- Bit i of a piece of at most 32 bits is bit 31 - i of its word. -/
theorem getLsbD_treeWord {l : List Bool} {i : Nat} {b : Bool} (hl : l.length ≤ 32) (hb : l[i]? = some b) :
    (treeWord l).getLsbD (31 - i) = b := by
  have hi := (List.getElem?_eq_some_iff.1 hb).1
  have hlen : (l ++ List.replicate (32 - l.length) false).length = 32 := by simp; omega
  rw [treeWord, BitVec.getLsbD_ofNat, testBit_natOfBitsMsb, List.getElem?_reverse (by omega), hlen,
    show 32 - 1 - (31 - i) = i by omega, List.getElem?_append_left hi, hb]
  simp
  omega

/-- Bit i of a piece of at most 8 bits is bit i of its byte. -/
theorem getLsbD_packedByte {l : List Bool} {i : Nat} {b : Bool} (hl : l.length ≤ 8) (hb : l[i]? = some b) :
    (BitVec.ofNat 8 (natOfBitsLsb l)).getLsbD i = b := by
  have hi := (List.getElem?_eq_some_iff.1 hb).1
  rw [BitVec.getLsbD_ofNat, testBit_natOfBitsLsb, hb]
  simp
  omega

@[simp] theorem length_colorBits (c : Color) : (colorBits c).length = 24 := by simp [colorBits]

/-- A color is the number its bits make. -/
theorem ofNat_natOfBitsMsb_colorBits (c : Color) : BitVec.ofNat 24 (natOfBitsMsb (colorBits c)) = c := by
  apply BitVec.eq_of_getLsbD_eq
  intro i hi
  have hget : (colorBits c)[23 - i]? = some (c.getLsbD (23 - (23 - i))) := by
    rw [colorBits, List.getElem?_map, List.getElem?_range (by omega)]
    rfl
  rw [BitVec.getLsbD_ofNat, testBit_natOfBitsMsb, List.getElem?_reverse (by simpa using hi), length_colorBits, hget,
    show 23 - (23 - i) = i by omega]
  simp [hi]

end Sys2Proof.Machine
end

section
/-! SUPPORT. The decoder's readers over a place that holds what the encoder wrote: each reader gives back what its part of
the buffer was made of (42_codec.md R231 to R235). -/

namespace Sys2Proof.Machine

/-- The reader f answers the elements of l at the places from o on. It is said of bytes at offsets and of the bits of a
stream alike. -/
def Reads {α : Type} (f : Nat → Except ErrCode α) (o : Nat) (l : List α) : Prop :=
  ∀ i a, l[i]? = some a → f (o + i) = .ok a

section
variable {α : Type} {f : Nat → Except ErrCode α} {o : Nat}

theorem reads_append_iff {l l' : List α} : Reads f o (l ++ l') ↔ Reads f o l ∧ Reads f (o + l.length) l' := by
  constructor
  · intro h
    refine ⟨fun i a ha => h i a ?_, fun i a ha => ?_⟩
    · rw [List.getElem?_append_left (List.getElem?_eq_some_iff.1 ha).1, ha]
    · rw [Nat.add_assoc]
      exact h _ a (by rw [List.getElem?_append_right (Nat.le_add_right ..), Nat.add_sub_cancel_left, ha])
  · rintro ⟨hl, hl'⟩ i a ha
    rcases Nat.lt_or_ge i l.length with hi | hi
    · exact hl i a (by rwa [List.getElem?_append_left hi] at ha)
    · rw [List.getElem?_append_right hi] at ha
      simpa [Nat.add_assoc, Nat.add_sub_cancel' hi] using hl' _ a ha

theorem reads_cons_iff {a : α} {l : List α} : Reads f o (a :: l) ↔ f o = .ok a ∧ Reads f (o + 1) l := by
  have hone : Reads f o [a] ↔ f o = .ok a := by
    constructor
    · exact fun h => h 0 a rfl
    · rintro h (_ | i) b hb
      · obtain rfl := Option.some.inj hb
        exact h
      · cases hb
  rw [← List.singleton_append, reads_append_iff, hone]
  rfl

theorem reads_nil : Reads f o [] := by
  intro i a ha
  cases ha

/-- A step that succeeds hands its value on. -/
theorem except_ok_bind {β : Type} (a : α) (g : α → Except ErrCode β) : (Except.ok a >>= g) = g a := rfl

theorem except_pure (a : α) : (pure a : Except ErrCode α) = .ok a := rfl

/-- Bits written in pieces of n, each as k bytes, read back as bits when each piece does and the reader of bits goes on
from piece to piece. -/
theorem reads_bits_of_reads_chunks {rd : Nat → Except ErrCode Byte} {bitAt : Nat → Nat → Except ErrCode Bool}
    {enc : List Bool → List Byte} {n k : Nat} (hn : 0 < n) (hk : ∀ l, (enc l).length = k)
    (next : ∀ o t, bitAt (o + k) t = bitAt o (t + n))
    (piece : ∀ o l, l.length ≤ n → Reads rd o (enc l) → Reads (bitAt o) 0 l)
    {fuel : Nat} {l : List Bool} (hf : l.length ≤ fuel) (h : Reads rd o ((chunksOf n fuel l).flatMap enc)) :
    Reads (bitAt o) 0 l := by
  induction fuel generalizing o l with
  | zero =>
    rw [List.length_eq_zero_iff.1 (Nat.le_zero.1 hf)]
    exact reads_nil
  | succ fuel ih =>
    rcases eq_or_ne l [] with rfl | hl
    · exact reads_nil
    rw [chunksOf_of_ne_nil n fuel hl, List.flatMap_cons, reads_append_iff, hk] at h
    obtain ⟨hfirst, hrest⟩ := h
    have hpos := List.length_pos_iff.2 hl
    have hdrop : (l.drop n).length ≤ fuel := by
      rw [List.length_drop]
      omega
    intro i b hb
    rcases Nat.lt_or_ge i n with hi | hi
    · exact piece o _ (List.length_take_le ..) hfirst i b (by rwa [List.getElem?_take_of_lt hi])
    · have hget : (l.drop n)[i - n]? = some b := by rwa [List.getElem?_drop, Nat.add_sub_cancel' hi]
      have hbit := ih hdrop hrest (i - n) b hget
      rwa [next, Nat.zero_add, Nat.sub_add_cancel hi, ← Nat.zero_add i] at hbit
end

variable {rd : Nat → Except ErrCode Byte} {o : Nat}

/-! ### The tree -/

theorem treeBitAt_next_word (o t : Nat) : treeBitAt rd (o + 4) t = treeBitAt rd o (t + 32) := by
  have hword : o + 4 + 4 * (t / 32) = o + 4 * ((t + 32) / 32) := by omega
  rw [treeBitAt, treeBitAt, hword, Nat.add_mod_right]

theorem treeBitAt_of_reads_word {w : Word} {t : Nat} (h : Reads rd o (bytesBE w)) (ht : t < 32) :
    treeBitAt rd o t = .ok (w.getLsbD (31 - t)) := by
  simp only [bytesBE, reads_cons_iff] at h
  obtain ⟨h0, h1, h2, h3, -⟩ := h
  rw [treeBitAt, Nat.div_eq_of_lt ht, Nat.mod_eq_of_lt ht, Nat.mul_zero, Nat.add_zero, h0, h1, h2, h3]
  exact congrArg (fun v : Word => Except.ok (v.getLsbD (31 - t))) (lanes_append w)

theorem reads_treeBits {t : Tree} (h : Reads rd o (treeBytes t)) : Reads (treeBitAt rd o) 0 (treeBits t) := by
  refine reads_bits_of_reads_chunks (k := 4) (by omega) (fun _ => rfl) treeBitAt_next_word ?_ le_rfl h
  intro o l hl hword i b hb
  have hi := (List.getElem?_eq_some_iff.1 hb).1
  rw [Nat.zero_add, treeBitAt_of_reads_word hword (by omega), getLsbD_treeWord hl hb]

theorem treeBitsAt_of_reads {l : List Bool} {t v : Nat} (h : Reads (treeBitAt rd o) t l) :
    treeBitsAt rd o l.length t v = .ok (l.foldl (fun v b => 2 * v + b.toNat) v) := by
  induction l generalizing t v with
  | nil => rfl
  | cons b l ih =>
    obtain ⟨hb, hl⟩ := reads_cons_iff.1 h
    rw [List.length_cons, treeBitsAt, hb, except_ok_bind, ih hl, List.foldl_cons]

/-- How far a parse has come after one more tree. -/
def ParsePos.after (p : ParsePos) (t : Tree) : ParsePos :=
  { bits := p.bits + (treeBits t).length
    leaves := p.leaves + t.leaves.length
    nodes := p.nodes + (t.leaves.length - 1) }

/-- Parsing a tree's bits gives the tree back, where the limits of R233 leave room for its leaves and nodes. -/
theorem parseTree_of_reads {t : Tree} {m fuel : Nat} {p : ParsePos}
    (hread : Reads (treeBitAt rd o) p.bits (treeBits t)) (hleaves : p.leaves + t.leaves.length ≤ m)
    (hnodes : p.nodes + t.leaves.length ≤ m) (hfuel : t.leaves.length ≤ fuel) :
    parseTree rd o m fuel p = .ok (t, p.after t) := by
  induction t generalizing fuel p with
  | leaf c =>
    obtain ⟨fuel, rfl⟩ : ∃ n, fuel = n + 1 := ⟨fuel - 1, (Nat.sub_add_cancel hfuel).symm⟩
    rw [treeBits, reads_cons_iff] at hread
    obtain ⟨hbit, hcolor⟩ := hread
    have hroom : p.leaves ≠ m := by
      simp only [Tree.leaves, List.length_singleton] at hleaves
      omega
    have hvalue := treeBitsAt_of_reads (v := 0) hcolor
    rw [length_colorBits] at hvalue
    rw [parseTree, hbit, except_ok_bind, if_pos rfl, if_neg hroom, hvalue, except_ok_bind, except_pure, ← natOfBitsMsb,
      ofNat_natOfBitsMsb_colorBits]
    simp [ParsePos.after, treeBits, Tree.leaves]
  | node l r ihl ihr =>
    have hl := l.one_le_length_leaves
    have hr := r.one_le_length_leaves
    simp only [Tree.leaves, List.length_append] at hleaves hnodes hfuel
    obtain ⟨fuel, rfl⟩ : ∃ n, fuel = n + 1 := ⟨fuel - 1, by omega⟩
    rw [treeBits, reads_cons_iff, reads_append_iff] at hread
    obtain ⟨hbit, hleft, hright⟩ := hread
    have hroom : p.nodes + 1 ≠ m := by omega
    have hparseL := ihl (p := { bits := p.bits + 1, leaves := p.leaves, nodes := p.nodes + 1 }) (fuel := fuel) hleft
      (by simp only; omega) (by simp only; omega) (by omega)
    have hparseR := ihr (p := ParsePos.after { bits := p.bits + 1, leaves := p.leaves, nodes := p.nodes + 1 } l)
      (fuel := fuel) hright (by simp only [ParsePos.after]; omega) (by simp only [ParsePos.after]; omega) (by omega)
    rw [parseTree, hbit, except_ok_bind, if_neg Bool.false_ne_true, if_neg hroom, hparseL, except_ok_bind, hparseR,
      except_ok_bind, except_pure]
    simp only [ParsePos.after, treeBits, Tree.leaves, List.length_cons, List.length_append, Except.ok.injEq,
      Prod.mk.injEq, ParsePos.mk.injEq, true_and]
    omega

/-! ### The code bits -/

theorem codeBitAt_next_byte (o t : Nat) : codeBitAt rd (o + 1) t = codeBitAt rd o (t + 8) := by
  have hbyte : o + 1 + t / 8 = o + (t + 8) / 8 := by omega
  rw [codeBitAt, codeBitAt, hbyte, Nat.add_mod_right]

theorem codeBitAt_of_read {b : Byte} {t : Nat} (h : rd o = .ok b) (ht : t < 8) :
    codeBitAt rd o t = .ok (b.getLsbD t) := by
  rw [codeBitAt, Nat.div_eq_of_lt ht, Nat.mod_eq_of_lt ht, Nat.add_zero, h]
  rfl

theorem reads_packLsb {l : List Bool} (h : Reads rd o (packLsb l)) : Reads (codeBitAt rd o) 0 l := by
  rw [packLsb, List.map_eq_flatMap] at h
  refine reads_bits_of_reads_chunks (k := 1) (by omega) (fun _ => rfl) codeBitAt_next_byte ?_ le_rfl h
  intro o l hl hbyte i b hb
  have hi := (List.getElem?_eq_some_iff.1 hb).1
  rw [Nat.zero_add, codeBitAt_of_read (reads_cons_iff.1 hbyte).1 (by omega), getLsbD_packedByte hl hb]

/-- Reading a path down the tree gives the color of its leaf. -/
theorem readSymbol_of_reads {t : Tree} {bits : List Bool} {c : Color} {i : Nat} (hleaf : leafAt t bits = some c)
    (h : Reads (codeBitAt rd o) i bits) : readSymbol rd o t i = .ok (c, i + bits.length) := by
  induction t generalizing bits i with
  | leaf d =>
    cases bits with
    | nil =>
      obtain rfl := Option.some.inj hleaf
      rfl
    | cons b bits => cases hleaf
  | node l r ihl ihr =>
    cases bits with
    | nil => cases hleaf
    | cons b bits =>
      obtain ⟨hb, hbits⟩ := reads_cons_iff.1 h
      have hlen : i + (b :: bits).length = i + 1 + bits.length := by
        rw [List.length_cons]
        omega
      rw [readSymbol, hb, except_ok_bind, hlen]
      cases b with
      | false => exact ihl hleaf hbits
      | true => exact ihr hleaf hbits

theorem readSymbols_of_reads {t : Tree} {runs : List (Color × Nat)} {i : Nat}
    (hcolors : ∀ r ∈ runs, r.1 ∈ t.leaves)
    (h : Reads (codeBitAt rd o) i (runBits t runs)) :
    readSymbols rd o t runs.length i = .ok (runs.map Prod.fst, i + (runBits t runs).length) := by
  induction runs generalizing i with
  | nil => rfl
  | cons r runs ih =>
    obtain ⟨hr, hruns⟩ := List.forall_mem_cons.1 hcolors
    rw [runBits, List.flatMap_cons, reads_append_iff, ← runBits] at h
    obtain ⟨hcode, hrest⟩ := h
    rw [List.length_cons, readSymbols, readSymbol_of_reads (leafAt_codeBits_codeOf hr) hcode, except_ok_bind,
      ih hruns hrest, except_ok_bind, except_pure, List.map_cons, Nat.add_assoc, ← List.length_append, runBits, runBits,
      List.flatMap_cons]

/-! ### The start bytes -/

theorem readStarts_of_reads {runs : List (Color × Nat)} (hsmall : ∀ r ∈ runs, r.2 < 256)
    (h : Reads rd o (startBytes runs)) : readStarts rd o runs.length = .ok (runs.map Prod.snd) := by
  induction runs generalizing o with
  | nil => rfl
  | cons r runs ih =>
    obtain ⟨hr, hruns⟩ := List.forall_mem_cons.1 hsmall
    obtain ⟨hbyte, hrest⟩ := reads_cons_iff.1 h
    rw [List.length_cons, readStarts, hbyte, except_ok_bind, ih hruns hrest, except_ok_bind, except_pure, List.map_cons,
      BitVec.toNat_ofNat, Nat.mod_eq_of_lt hr]

theorem risingStarts_of_pairwise {st : List Nat} (h : st.Pairwise (· < ·)) : risingStarts st = true := by
  induction st with
  | nil => rfl
  | cons a st ih =>
    obtain ⟨ha, hst⟩ := List.pairwise_cons.1 h
    cases st with
    | nil => rfl
    | cons b st => simp [risingStarts, ha b List.mem_cons_self, ih hst]

/-- The starts of a line's runs pass the check of R235. -/
theorem startsOk_runsOf {x : List Color} (hx : x ≠ []) : startsOk ((runsOf x).map Prod.snd) x.length = true := by
  have hlast : ((runsOf x).map Prod.snd).getLast?.getD x.length < x.length := by
    cases hl : ((runsOf x).map Prod.snd).getLast? with
    | none =>
      have hhead := head?_starts_runsOf hx
      rw [List.getLast?_eq_none_iff.1 hl] at hhead
      cases hhead
    | some q =>
      obtain ⟨r, hr, rfl⟩ := List.mem_map.1 (List.mem_of_getLast? hl)
      exact lt_length_of_mem_runsOf hr
  rw [startsOk, head?_starts_runsOf hx, risingStarts_of_pairwise (runsOf_pairwise x), decide_eq_true hlast]
  rfl

end Sys2Proof.Machine
end

section
/-! SUPPORT. The cells HDEC writes for the runs of a line are the line's samples (42_codec.md R236). -/

namespace Sys2Proof.Machine

/-- The samples of x as cells from place p on. -/
def lineCellsFrom (p : Nat) (x : List Color) : List (Nat × Color) := (x.zipIdx p).map Prod.swap

theorem mem_lineCellsFrom_zero_iff {x : List Color} {p : Nat} {c : Color} :
    (p, c) ∈ lineCellsFrom 0 x ↔ x[p]? = some c := by
  rw [lineCellsFrom, ← List.mk_mem_zipIdx_iff_getElem?]
  simp

/-- A run begun at a whose samples before place p have been seen, and the samples from p on. -/
theorem runCells_runsFrom {a p : Nat} (c : Color) (x : List Color) (ha : a ≤ p) :
    runCells (c :: (runsFrom p c x).map Prod.fst) (a :: (runsFrom p c x).map Prod.snd) (p + x.length) =
      (List.range' a (p - a)).map (fun q => (q, c)) ++ lineCellsFrom p x := by
  induction x generalizing a p c with
  | nil => simp [runsFrom, runCells, lineCellsFrom]
  | cons d x ih =>
    have hcons : lineCellsFrom p (d :: x) = (p, d) :: lineCellsFrom (p + 1) x := rfl
    rw [List.length_cons, Nat.add_comm x.length 1, ← Nat.add_assoc, hcons]
    by_cases hd : d = c
    · rw [runsFrom, if_pos hd, ih c (Nat.le_succ_of_le ha), hd, Nat.succ_sub ha, List.range'_concat]
      simp [Nat.add_sub_cancel' ha]
    · rw [runsFrom, if_neg hd, List.map_cons, List.map_cons, runCells, ih d (Nat.le_succ p), Nat.succ_sub le_rfl,
        Nat.sub_self]
      rfl

/-- The runs of a line cover each sample once. -/
theorem runCells_runsOf (x : List Color) :
    runCells ((runsOf x).map Prod.fst) ((runsOf x).map Prod.snd) x.length = lineCellsFrom 0 x := by
  cases x with
  | nil => rfl
  | cons c x =>
    rw [List.length_cons, Nat.add_comm]
    exact runCells_runsFrom c x (Nat.zero_le 1)

end Sys2Proof.Machine
end

section
/-! PROOFS. HDEC reads an encoded line back (42_codec.md R237). -/

namespace Sys2Proof.Machine

/-- Reading a line's buffer gives the line's samples and the place after the buffer. -/
theorem readLine_encodeLine {rd : Nat → Except ErrCode Byte} {o : Nat} {x : List Color} (hx : x ≠ [])
    (hlen : x.length ≤ 256) (h : Reads rd o (encodeLine x).bytes) :
    readLine rd o (encodeLine x).runs x.length =
      .ok { cells := lineCellsFrom 0 x, decEnd := o + (encodeLine x).bytes.length } := by
  obtain ⟨t, ht⟩ := exists_buildTree hx
  have hend := length_encodeLine_bytes ht
  rw [encodeLine_of_buildTree ht, reads_append_iff, reads_append_iff, List.length_append, length_treeBytes,
    length_packLsb] at h
  obtain ⟨⟨htree, hcode⟩, hstarts⟩ := h
  have hroom : t.leaves.length ≤ x.length := by
    rw [length_leaves ht]
    exact List.toFinset_card_le x
  have hparse : parseTree rd o x.length x.length { bits := 0, leaves := 0, nodes := 0 } = .ok (t, _) :=
    parseTree_of_reads (reads_treeBits htree) (by simpa using hroom) (by simpa using hroom) hroom
  have hsymbols := readSymbols_of_reads (fun r hr => (mem_leaves_iff ht).2 (color_mem_of_mem_runsOf hr))
    (reads_packLsb hcode)
  have hread := readStarts_of_reads (fun r hr => (lt_length_of_mem_runsOf hr).trans_le hlen) hstarts
  rw [readLine, encodeLine_runs hx, hparse, except_ok_bind]
  simp only [ParsePos.after, Nat.zero_add] at hsymbols ⊢
  rw [hsymbols, except_ok_bind]
  simp only [Nat.add_assoc] at hread hend ⊢
  rw [hread, except_ok_bind, if_pos (startsOk_runsOf hx), except_pure, runCells_runsOf, hend]

theorem keepsMem_writeDbuf (cells : List (Nat × Color)) (s : State) {m : MemName} (h : m ≠ .dbuf) :
    keepsMem s (writeDbuf cells s) m := by
  cases m with
  | dbuf => exact absurd rfl h
  | _ => intro _; intros; rfl

theorem keepsMem_latchDec {s t : State} {m : MemName} (n : Nat) (h : keepsMem s t m) : keepsMem s (latchDec n t) m := by
  cases m <;> exact h

theorem exec_hdec_of_readLine {s : State} {d : Decoded} (hready : HdecReady s)
    (h : readLine (decByte s) s.regs.decOff.toNat s.regs.decRuns.toNat s.regs.decLen.toNat = .ok d) :
    exec .hdec s = .next (latchDec d.decEnd (writeDbuf d.cells s)) := by
  change execHdec s = _
  rcases execHdec_cases s with ⟨hnot, -⟩ | ⟨e, -, herr, -⟩ | ⟨d', -, hok, hexec⟩
  · exact absurd hready hnot
  · cases h.symm.trans herr
  · obtain rfl := Except.ok.inj (h.symm.trans hok)
    exact hexec

theorem readDbuf_writeDbuf_of_mem {cells : List (Nat × Color)} {p n : Nat} {c : Color} (s : State) (h : (p, c) ∈ cells)
    (agree : ∀ d, (p, d) ∈ cells → d = c) : readDbuf (latchDec n (writeDbuf cells s)) p = c :=
  cellOr_writeAll_of_mem _ _ _ h agree

theorem readDbuf_writeDbuf_of_notMem {cells : List (Nat × Color)} {p n : Nat} (s : State) (h : ∀ d ∈ cells, d.1 ≠ p) :
    readDbuf (latchDec n (writeDbuf cells s)) p = readDbuf s p :=
  cellOr_writeAll_of_notMem _ _ _ h

/-- Settles O49: below CLEN the decoder reads the buffer's bytes, and its readers undo the encoder part by part
(`readLine_encodeLine`). -/
theorem hdecReadsBackTheLine : Obligations.HdecReadsBackTheLine := by
  unfold Obligations.HdecReadsBackTheLine
  intro s x hx hlen hdecLen hdecRuns hcbuf hclen
  have hreads : Reads (decByte s) s.regs.decOff.toNat (encodeLine x).bytes := by
    intro q b hb
    have hq := (List.getElem?_eq_some_iff.1 hb).1
    rw [decByte, if_pos (by omega), Option.some.inj ((hcbuf q hq).trans hb)]
  have hready : HdecReady s := by
    have hpos := List.length_pos_iff.2 hx
    have hruns := runsOf_length_pos hx
    have hle := runsOf_length_le x
    rw [encodeLine_runs hx] at hdecRuns
    exact ⟨by omega, by omega, by omega, by omega⟩
  have hline := readLine_encodeLine hx hlen hreads
  rw [← hdecLen, ← hdecRuns] at hline
  refine ⟨_, exec_hdec_of_readLine hready hline, rfl, fun p hp => ?_, fun p hp => ?_, ?mems, ⟨rfl, rfl, rfl⟩⟩
  · have hget := List.getElem?_eq_getElem hp
    rw [hget, readDbuf_writeDbuf_of_mem s (mem_lineCellsFrom_zero_iff.2 hget) fun d hd =>
      Option.some.inj ((mem_lineCellsFrom_zero_iff.1 hd).symm.trans hget)]
  · refine readDbuf_writeDbuf_of_notMem s ?_
    rintro ⟨q, c⟩ hd rfl
    have := (List.getElem?_eq_some_iff.1 (mem_lineCellsFrom_zero_iff.1 hd)).1
    omega
  case mems =>
    intro m hm
    exact keepsMem_latchDec _ (keepsMem_writeDbuf _ s (by rintro rfl; simp at hm))

end Sys2Proof.Machine
end

section
/-! SUPPORT. The fields of a command word: each field the decoder reads, put back at its place by the encoder, is that
part of the word; and each field the encoder writes is read back (30_encoding.md R130, R136). -/

namespace Sys2Proof

/-! ### From the word to the field and back -/

theorem axisField_bit_shift (w : Word) : (axisField w).bit <<< 4 = w &&& BitVec.twoPow 32 4 := by
  rw [BitVec.and_twoPow, axisField]
  split <;> decide

theorem basisField_bit_shift (w : Word) : (basisField w).bit <<< 5 = w &&& BitVec.twoPow 32 5 := by
  rw [BitVec.and_twoPow, basisField]
  split <;> decide

theorem sourceField_bit_shift (w : Word) : (sourceField w).bit <<< 6 = w &&& BitVec.twoPow 32 6 := by
  rw [BitVec.and_twoPow, sourceField]
  split <;> decide

theorem idxField_lt (w : Word) : idxField w < 4096 := (w.extractLsb' 8 12).isLt

theorem idxField_shift (w : Word) : BitVec.ofNat 32 (idxField w) <<< 8 = w &&& 0x000FFF00 := by
  rw [idxField, BitVec.ofNat_toNat]
  apply BitVec.eq_of_getLsbD_eq
  intro i hi
  interval_cases i <;> simp

/-- A word is what its row fixes and what its row leaves free, where the two masks cover all bits. -/
theorem pattern_or_free {w mask pattern : Word} (free : Word) (hfits : w &&& mask = pattern)
    (hcover : mask ||| free = BitVec.allOnes 32) : pattern ||| (w &&& free) = w := by
  rw [← hfits, ← BitVec.and_or_distrib_left, hcover, BitVec.and_allOnes]

/-! ### From the command to the word and back -/

theorem idxField_encode_hencLine (ax : Axis) (sr : Source) {idx : Nat} (h : idx < 4096) :
    idxField (encode (.hencLine ax sr idx)) = idx := by
  have hbits : (encode (.hencLine ax sr idx)).extractLsb' 8 12 = (BitVec.ofNat 32 idx).setWidth 12 := by
    rw [encode]
    generalize BitVec.ofNat 32 idx = x
    apply BitVec.eq_of_getLsbD_eq
    intro i hi
    cases ax <;> cases sr <;> interval_cases i <;> simp [Axis.bit, Source.bit]
  rw [idxField, hbits, BitVec.toNat_setWidth, BitVec.toNat_ofNat]
  omega

theorem axisField_encode_hencLine (ax : Axis) (sr : Source) (idx : Nat) :
    axisField (encode (.hencLine ax sr idx)) = ax := by
  cases ax <;> cases sr <;> simp [axisField, encode, Axis.bit, Source.bit]

theorem sourceField_encode_hencLine (ax : Axis) (sr : Source) (idx : Nat) :
    sourceField (encode (.hencLine ax sr idx)) = sr := by
  cases ax <;> cases sr <;> simp [sourceField, encode, Axis.bit, Source.bit]

/-- The opcode's command with the fields of its own word is the command. -/
theorem instrOfOp_encode (i : Instr) (h : WellFormed i) : instrOfOp (opcodeOf i) (encode i) = some i := by
  cases i with
  | hencLine ax sr idx =>
    have hidx : idx < 4096 := of_decide_eq_true h
    simp only [opcodeOf, instrOfOp, axisField_encode_hencLine, sourceField_encode_hencLine,
      idxField_encode_hencLine ax sr hidx]
  | fwd ax bs => cases ax <;> cases bs <;> rfl
  | inv ax => cases ax <;> rfl
  | hencAll ax sr => cases ax <;> cases sr <;> rfl
  | _ => rfl

/-- The word of a well-formed command has the shape of some row (30_encoding.md R133). -/
theorem encode_fits_row (i : Instr) : Laws.EncodeFitsRow.Statement i :=
  match i with
  | .nop => Laws.EncodeFitsRow.nop
  | .sample => Laws.EncodeFitsRow.sample
  | .fwd ax bs => Laws.EncodeFitsRow.fwd ax bs
  | .inv ax => Laws.EncodeFitsRow.inv ax
  | .hencLine ax sr idx => Laws.EncodeFitsRow.hencLine ax sr idx
  | .hencAll ax sr => Laws.EncodeFitsRow.hencAll ax sr
  | .hdec => Laws.EncodeFitsRow.hdec
  | .cbufClear => Laws.EncodeFitsRow.cbufClear
  | .gridLoad => Laws.EncodeFitsRow.gridLoad

theorem opField_encode (i : Instr) : opField (encode i) = opcodeOf i := by
  cases i with
  | hencLine ax sr idx =>
    have hbits : (encode (.hencLine ax sr idx)).extractLsb' 0 4 = 4 := by
      apply BitVec.eq_of_getLsbD_eq
      intro i hi
      cases ax <;> cases sr <;> interval_cases i <;> simp [encode, Axis.bit, Source.bit]
    rw [opField, hbits]
    rfl
  | fwd ax bs => cases ax <;> cases bs <;> rfl
  | inv ax => cases ax <;> rfl
  | hencAll ax sr => cases ax <;> cases sr <;> rfl
  | _ => rfl

end Sys2Proof
end

section
/-! PROOFS. Encoding and decoding undo each other (30_encoding.md R133, R134, R136). -/

namespace Sys2Proof

/-- Settles O1: the word of a command fits the row its opcode field selects, and the fields are read back. -/
theorem decodeOfEncode : Obligations.DecodeOfEncode := by
  unfold Obligations.DecodeOfEncode
  intro i h
  obtain ⟨row, hrow, hfits⟩ := encode_fits_row i h
  refine decode_of_fits hrow ?_ (of_decide_eq_true hfits)
  rw [opField_encode]
  exact instrOfOp_encode i h

/-- Settles O2: what a row leaves free is exactly the fields of its command, which the encoder puts back. -/
theorem encodeOfDecode : Obligations.EncodeOfDecode := by
  unfold Obligations.EncodeOfDecode
  intro w i h
  obtain ⟨row, hrow, hfits, hi⟩ := decode_eq_ok_iff.mp h
  have hop := opcodeOf_of_instrOfOp hi
  rw [← hop] at hrow hi
  cases i with
  | fwd ax bs =>
    cases hrow
    cases hi
    refine ⟨rfl, ?_⟩
    rw [encode, axisField_bit_shift, basisField_bit_shift, BitVec.or_assoc, ← BitVec.and_or_distrib_left]
    exact pattern_or_free _ hfits (by decide)
  | inv ax =>
    cases hrow
    cases hi
    refine ⟨rfl, ?_⟩
    rw [encode, axisField_bit_shift]
    exact pattern_or_free _ hfits (by decide)
  | hencLine ax sr idx =>
    cases hrow
    cases hi
    refine ⟨decide_eq_true (idxField_lt w), ?_⟩
    rw [encode, axisField_bit_shift, sourceField_bit_shift, idxField_shift, BitVec.or_assoc, BitVec.or_assoc,
      ← BitVec.and_or_distrib_left, ← BitVec.and_or_distrib_left]
    exact pattern_or_free _ hfits (by decide)
  | hencAll ax sr =>
    cases hrow
    cases hi
    refine ⟨rfl, ?_⟩
    rw [encode, axisField_bit_shift, sourceField_bit_shift, BitVec.or_assoc, ← BitVec.and_or_distrib_left]
    exact pattern_or_free _ hfits (by decide)
  | _ =>
    cases hrow
    exact ⟨rfl, hfits.symm.trans BitVec.and_allOnes⟩

/-- Settles O4: each word is decoded by evaluation of the decoder. -/
theorem writtenWordsDecode : Obligations.WrittenWordsDecode := by
  unfold Obligations.WrittenWordsDecode
  decide

end Sys2Proof
end

section
/-! SUPPORT. What a command can do, said once (43_control.md R253, R255): it raises one error on the state it found, or it
is performed; and which memories each performed command writes (10_state.md R72 to R81). -/

namespace Sys2Proof.Machine

/-! ### The state after a line is appended -/

/-- The state `appendLine` answers when the line is appended (42_codec.md R221). -/
def lineAppended (x : List Color) (ax : Axis) (sr : Source) (n : Nat) (s : State) : State :=
  latchAppend (encodeLine x).bytes.length x.length
    (writeLtab [(s.regs.lcnt.toNat, lineEntry s (encodeLine x) ax sr n)]
      (writeCbuf (bytesAt s.regs.clen.toNat (encodeLine x).bytes) s))

@[simp] theorem lineAppended_regs (x : List Color) (ax : Axis) (sr : Source) (n : Nat) (s : State) :
    (lineAppended x ax sr n s).regs = { s.regs with
      lcnt := s.regs.lcnt + 1
      clen := s.regs.clen + BitVec.ofNat 32 (encodeLine x).bytes.length
      status := { s.regs.status with trunc8 := s.regs.status.trunc8 || decide (256 < x.length) } } := rfl

/-- A line is appended when LTAB has a free entry and CBUF room (42_codec.md R221). -/
theorem appendLine_eq_ok_iff {x : List Color} {ax : Axis} {sr : Source} {n : Nat} {s t : State} :
    appendLine x ax sr n s = .ok t ↔ s.regs.lcnt.toNat ≠ Config.ltabMax ∧
      s.regs.clen.toNat + (encodeLine x).bytes.length ≤ Config.cbufBytes ∧ t = lineAppended x ax sr n s := by
  rcases appendLine_cases x ax sr n s with ⟨hfull, h⟩ | ⟨-, hroom, h⟩ | ⟨hfree, hroom, h⟩
  · simp [h, hfull]
  · simp [h, hroom]
  · simp [h, hfree, hroom, lineAppended, eq_comm]

/-! ### The outcome of a command -/

/-- A command that raises no error takes s to t, with the checks that it passed. -/
inductive Performed : Instr → State → State → Prop
  | nop (s : State) : Performed .nop s s
  | sample {s : State} (h : SampleReady s) : Performed .sample s (samplePass s)
  | gridLoad {s : State} (h : ShapeReady s) : Performed .gridLoad s (gridLoadPass s)
  | fwd {s : State} (ax : Axis) (bs : Basis) (h : checkFwd s = none) : Performed (.fwd ax bs) s (fwdPass ax bs s)
  | inv {s : State} (ax : Axis) (h : coefValid ax s.regs.status = true) : Performed (.inv ax) s (invPass ax s)
  | hencLine {s : State} (ax : Axis) (sr : Source) (n : Nat) (h : SourceValid sr s) (hn : n < lineCount s ax)
      (hfree : s.regs.lcnt.toNat ≠ Config.ltabMax)
      (hroom : s.regs.clen.toNat + (encodeLine (codecLine s sr ax n)).bytes.length ≤ Config.cbufBytes) :
      Performed (.hencLine ax sr n) s (lineAppended (codecLine s sr ax n) ax sr n s)
  | hencAll {s : State} (ax : Axis) (sr : Source) (h : SourceValid sr s) :
      Performed (.hencAll ax sr) s (hencLoop ax sr (List.range (lineCount s ax)) (clearStream s))
  | hdec {s : State} (d : Decoded) (h : HdecReady s)
      (hread : readLine (decByte s) s.regs.decOff.toNat s.regs.decRuns.toNat s.regs.decLen.toNat = .ok d) :
      Performed .hdec s (latchDec d.decEnd (writeDbuf d.cells s))
  | cbufClear (s : State) : Performed .cbufClear s (clearStream s)

/-- Every command answers a next state: its start with one error raised, or the state it is performed to. -/
theorem exec_outcome (i : Instr) (s : State) :
    ∃ t, exec i s = .next t ∧ ((∃ e, t = raise e s) ∨ Performed i s t) := by
  cases i with
  | nop => exact ⟨_, rfl, .inr (.nop s)⟩
  | cbufClear => exact ⟨_, rfl, .inr (.cbufClear s)⟩
  | sample =>
    rcases execSample_cases s with ⟨hr, h⟩ | ⟨-, h⟩
    · exact ⟨_, h, .inr (.sample hr)⟩
    · exact ⟨_, h, .inl ⟨_, rfl⟩⟩
  | gridLoad =>
    rcases execGridLoad_cases s with ⟨hr, h⟩ | ⟨-, h⟩
    · exact ⟨_, h, .inr (.gridLoad hr)⟩
    · exact ⟨_, h, .inl ⟨_, rfl⟩⟩
  | fwd ax bs =>
    rcases execFwd_cases ax bs s with ⟨hr, h⟩ | ⟨e, -, h⟩
    · exact ⟨_, h, .inr (.fwd ax bs hr)⟩
    · exact ⟨_, h, .inl ⟨e, rfl⟩⟩
  | inv ax =>
    rcases execInv_cases ax s with ⟨hr, h⟩ | ⟨-, h⟩
    · exact ⟨_, h, .inr (.inv ax hr)⟩
    · exact ⟨_, h, .inl ⟨_, rfl⟩⟩
  | hencLine ax sr n =>
    rcases execHencLine_cases ax sr n s with ⟨t, hv, hn, ha, h⟩ | ⟨e, h⟩
    · obtain ⟨hfree, hroom, rfl⟩ := appendLine_eq_ok_iff.1 ha
      exact ⟨_, h, .inr (.hencLine ax sr n hv hn hfree hroom)⟩
    · exact ⟨_, h, .inl ⟨e, rfl⟩⟩
  | hencAll ax sr =>
    rcases execHencAll_cases ax sr s with ⟨hv, h⟩ | ⟨e, -, h⟩
    · exact ⟨_, h, .inr (.hencAll ax sr hv)⟩
    · exact ⟨_, h, .inl ⟨e, rfl⟩⟩
  | hdec =>
    rcases execHdec_cases s with ⟨-, h⟩ | ⟨e, -, -, h⟩ | ⟨d, hr, hd, h⟩
    · exact ⟨_, h, .inl ⟨_, rfl⟩⟩
    · exact ⟨_, h, .inl ⟨e, rfl⟩⟩
    · exact ⟨_, h, .inr (.hdec d hr hd)⟩

/-- The outcome of a command that is known to answer t. -/
theorem raise_or_performed_of_exec {i : Instr} {s t : State} (h : exec i s = .next t) :
    (∃ e, t = raise e s) ∨ Performed i s t := by
  obtain ⟨u, hu, hcases⟩ := exec_outcome i s
  obtain rfl := Host.Outcome.next.inj (h.symm.trans hu)
  exact hcases

/-! ### The memories a command writes -/

/-- Every memory but those named reads in t as in s. -/
def KeepsAllBut (ws : List MemName) (s t : State) : Prop := ∀ m, m ∉ ws → keepsMem s t m

section
variable {s t u : State} {ws : List MemName}

theorem keepsMem_refl (s : State) (m : MemName) : keepsMem s s m := by
  cases m <;> intro _ <;> intros <;> rfl

theorem keepsMem_trans {m : MemName} (h : keepsMem s t m) (h' : keepsMem t u m) : keepsMem s u m := by
  cases m <;> intro _ <;> intros <;> exact (h' ..).trans (h ..)

theorem KeepsAllBut.refl (s : State) : KeepsAllBut ws s s := fun m _ => keepsMem_refl s m

theorem KeepsAllBut.trans (h : KeepsAllBut ws s t) (h' : KeepsAllBut ws t u) : KeepsAllBut ws s u :=
  fun m hm => keepsMem_trans (h m hm) (h' m hm)

theorem KeepsAllBut.of_nil (h : KeepsAllBut [] s t) : KeepsAllBut ws s t := fun m _ => h m List.not_mem_nil

theorem KeepsAllBut.keepsMems {ms : List MemName} (h : KeepsAllBut ws s t) (hdisj : ∀ m ∈ ms, m ∉ ws) :
    KeepsMems ms s t := fun m hm => h m (hdisj m hm)

/-- A state with the same memories reads the same everywhere. -/
theorem KeepsAllBut.of_mems_eq (hm : t.mems = s.mems) (hr : t.resets = s.resets) : KeepsAllBut ws s t := by
  intro m _
  cases m with
  | img => exact readImg_congr (by rw [hm]) hr
  | new => exact readNew_congr (by rw [hm]) hr
  | conv => exact readConv_congr (by rw [hm]) hr
  | full => exact readFull_congr (by rw [hm]) hr
  | coefRad => exact readCoef_rad_congr (by rw [hm]) hr
  | coefAng => exact readCoef_ang_congr (by rw [hm]) hr
  | wide => exact readWide_congr (by rw [hm]) hr
  | inv => exact readInv_congr (by rw [hm]) hr
  | cbuf => exact readCbuf_congr (by rw [hm]) hr
  | ltab => exact readLtab_congr (by rw [hm]) hr
  | dbuf => exact readDbuf_congr (by rw [hm]) hr

end

theorem keepsAllBut_raise (e : ErrCode) (s : State) : KeepsAllBut [] s (raise e s) := .of_mems_eq rfl rfl

theorem keepsAllBut_clearStream (s : State) : KeepsAllBut [] s (clearStream s) := .of_mems_eq rfl rfl

/-- SAMPLE writes NEW, CONV and FULL (40_sampler.md R165). -/
theorem keepsAllBut_samplePass (s : State) : KeepsAllBut [.new, .conv, .full] s (samplePass s) := by
  intro m hm
  cases m with
  | new | conv | full => simp at hm
  | _ => intro _; intros; rfl

/-- GRID_LOAD writes NEW and CONV (40_sampler.md R170). -/
theorem keepsAllBut_gridLoadPass (s : State) : KeepsAllBut [.new, .conv] s (gridLoadPass s) := by
  intro m hm
  cases m with
  | new | conv => simp at hm
  | _ => intro _; intros; rfl

/-- FWD writes the coefficient file of its axis (41_transform.md R180). -/
theorem keepsAllBut_fwdPass (ax : Axis) (bs : Basis) (s : State) :
    KeepsAllBut [coefName ax] s (fwdPass ax bs s) := by
  intro m hm
  cases ax with
  | rad =>
    cases m with
    | coefRad => simp [coefName] at hm
    | _ => intro _; intros; rfl
  | ang =>
    cases m with
    | coefAng => simp [coefName] at hm
    | _ => intro _; intros; rfl

/-- INV writes WIDE and INV (41_transform.md R191). -/
theorem keepsAllBut_invPass (ax : Axis) (s : State) : KeepsAllBut [.wide, .inv] s (invPass ax s) := by
  intro m hm
  cases m with
  | wide | inv => simp at hm
  | _ => intro _; intros; rfl

/-- An append writes CBUF and LTAB (42_codec.md R221). -/
theorem keepsAllBut_lineAppended (x : List Color) (ax : Axis) (sr : Source) (n : Nat) (s : State) :
    KeepsAllBut [.cbuf, .ltab] s (lineAppended x ax sr n s) := by
  intro m hm
  cases m with
  | cbuf | ltab => simp at hm
  | _ => intro _; intros; rfl

theorem keepsAllBut_hencLoop (ax : Axis) (sr : Source) (ns : List Nat) (s : State) :
    KeepsAllBut [.cbuf, .ltab] s (hencLoop ax sr ns s) := by
  refine hencLoop_induction (KeepsAllBut [.cbuf, .ltab] s) ax sr ns s (.refl s) ?append ?fail ?clear
  case append =>
    intro n t u _ ht ha
    obtain ⟨-, -, rfl⟩ := appendLine_eq_ok_iff.1 ha
    exact ht.trans (keepsAllBut_lineAppended _ ax sr n t)
  case fail => exact fun e t ht => ht.trans (.of_mems_eq rfl rfl)
  case clear => exact fun t ht => ht.trans (.of_mems_eq rfl rfl)

/-- HDEC writes DBUF (42_codec.md R236). -/
theorem keepsAllBut_decoded (d : Decoded) (s : State) :
    KeepsAllBut [.dbuf] s (latchDec d.decEnd (writeDbuf d.cells s)) := by
  intro m hm
  exact keepsMem_latchDec _ (keepsMem_writeDbuf _ s (by simpa using hm))

/-- The memories a command can write (10_state.md R72 to R81). -/
def writtenMems : Instr → List MemName
  | .nop => []
  | .sample => [.new, .conv, .full]
  | .gridLoad => [.new, .conv]
  | .fwd ax _ => [coefName ax]
  | .inv _ => [.wide, .inv]
  | .hencLine _ _ _ => [.cbuf, .ltab]
  | .hencAll _ _ => [.cbuf, .ltab]
  | .hdec => [.dbuf]
  | .cbufClear => []

/-- Whatever its outcome, a command writes no other memories. -/
theorem keepsAllBut_of_exec {i : Instr} {s t : State} (h : exec i s = .next t) : KeepsAllBut (writtenMems i) s t := by
  rcases raise_or_performed_of_exec h with ⟨e, rfl⟩ | hp
  · exact (keepsAllBut_raise e s).of_nil
  · cases hp with
    | nop => exact .refl s
    | sample => exact keepsAllBut_samplePass s
    | gridLoad => exact keepsAllBut_gridLoadPass s
    | fwd ax bs => exact keepsAllBut_fwdPass ax bs s
    | inv ax => exact keepsAllBut_invPass ax s
    | hencLine ax sr n => exact keepsAllBut_lineAppended _ ax sr n s
    | hencAll ax sr => exact (keepsAllBut_clearStream s).of_nil.trans (keepsAllBut_hencLoop ax sr _ _)
    | hdec d => exact keepsAllBut_decoded d s
    | cbufClear => exact keepsAllBut_clearStream s

end Sys2Proof.Machine
end

section
/-! SUPPORT. What no command changes among the registers (10_state.md R45 to R65, 43_control.md R252). -/

namespace Sys2Proof.Machine

/-- The registers, flags and port record that every command leaves alone. -/
structure KeepsConfiguration (s t : State) : Prop where
  regs : t.regs = { s.regs with
      status := t.regs.status, errCode := t.regs.errCode, errCmd := t.regs.errCmd
      clen := t.regs.clen, lcnt := t.regs.lcnt, decEnd := t.regs.decEnd
      gridS := t.regs.gridS, gridL := t.regs.gridL, coefNRad := t.regs.coefNRad, coefNAng := t.regs.coefNAng
      invLen := t.regs.invLen, convCount := t.regs.convCount }
  busy : t.regs.status.busy = s.regs.status.busy
  done : t.regs.status.done = s.regs.status.done
  haz : t.regs.status.haz = s.regs.status.haz
  busErr : t.regs.status.busErr = s.regs.status.busErr
  port : KeepsPort s t

section
variable {s t u : State}

theorem KeepsConfiguration.refl (s : State) : KeepsConfiguration s s := ⟨rfl, rfl, rfl, rfl, rfl, rfl, rfl, rfl⟩

theorem KeepsConfiguration.trans (h : KeepsConfiguration s t) (h' : KeepsConfiguration t u) :
    KeepsConfiguration s u := by
  refine ⟨?_, h'.busy.trans h.busy, h'.done.trans h.done, h'.haz.trans h.haz, h'.busErr.trans h.busErr,
    h'.port.1.trans h.port.1, h'.port.2.1.trans h.port.2.1, h'.port.2.2.trans h.port.2.2⟩
  have hu := h'.regs
  rw [h.regs] at hu
  exact hu

theorem keepsConfiguration_raise (e : ErrCode) (s : State) : KeepsConfiguration s (raise e s) :=
  ⟨rfl, rfl, rfl, rfl, rfl, rfl, rfl, rfl⟩

theorem keepsConfiguration_clearStream (s : State) : KeepsConfiguration s (clearStream s) :=
  ⟨rfl, rfl, rfl, rfl, rfl, rfl, rfl, rfl⟩

theorem keepsConfiguration_lineAppended (x : List Color) (ax : Axis) (sr : Source) (n : Nat) (s : State) :
    KeepsConfiguration s (lineAppended x ax sr n s) :=
  ⟨rfl, rfl, rfl, rfl, rfl, rfl, rfl, rfl⟩

theorem keepsConfiguration_hencLoop (ax : Axis) (sr : Source) (ns : List Nat) (s : State) :
    KeepsConfiguration s (hencLoop ax sr ns s) := by
  refine hencLoop_induction (KeepsConfiguration s) ax sr ns s (.refl s) ?append ?fail ?clear
  case append =>
    intro n t u _ ht ha
    obtain ⟨-, -, rfl⟩ := appendLine_eq_ok_iff.1 ha
    exact ht.trans (keepsConfiguration_lineAppended _ ax sr n t)
  case fail => exact fun e t ht => ht.trans (keepsConfiguration_raise e t)
  case clear => exact fun t ht => ht.trans (keepsConfiguration_clearStream t)

theorem keepsConfiguration_of_exec {i : Instr} (h : exec i s = .next t) : KeepsConfiguration s t := by
  rcases raise_or_performed_of_exec h with ⟨e, rfl⟩ | hp
  · exact keepsConfiguration_raise e s
  · cases hp with
    | hencAll ax sr => exact (keepsConfiguration_clearStream s).trans (keepsConfiguration_hencLoop ax sr _ _)
    | hencLine ax sr n => exact keepsConfiguration_lineAppended _ ax sr n s
    | fwd ax bs => cases ax <;> exact ⟨rfl, rfl, rfl, rfl, rfl, rfl, rfl, rfl⟩
    | _ => exact ⟨rfl, rfl, rfl, rfl, rfl, rfl, rfl, rfl⟩

end

/-- A performed command other than HENC_ALL leaves the error registers. -/
theorem Performed.keeps_errors {i : Instr} {s t : State} (h : Performed i s t) (hi : ∀ ax sr, i ≠ .hencAll ax sr) :
    t.regs.status.err = s.regs.status.err ∧ t.regs.errCode = s.regs.errCode ∧ t.regs.errCmd = s.regs.errCmd := by
  cases h with
  | hencAll ax sr => exact absurd rfl (hi ax sr)
  | fwd ax bs => cases ax <;> exact ⟨rfl, rfl, rfl⟩
  | _ => exact ⟨rfl, rfl, rfl⟩

end Sys2Proof.Machine
end

section
/-! PROOFS. The statements about all commands: what they keep (10_state.md R45 to R81, 43_control.md R252 to R255). -/

namespace Sys2Proof.Machine

/-- Settles O12: a command raises one error on its start state, or is performed and raises none. -/
theorem errorChangesNothingElse : Obligations.ErrorChangesNothingElse := by
  unfold Obligations.ErrorChangesNothingElse
  intro i s t hi h
  exact (raise_or_performed_of_exec h).imp_right fun hp => hp.keeps_errors hi

/-- Settles O59: `KeepsConfiguration` of every outcome, and IMG is in no command's list of written memories. -/
theorem commandsKeepConfiguration : Obligations.CommandsKeepConfiguration := by
  unfold Obligations.CommandsKeepConfiguration
  intro i s t h
  obtain ⟨hregs, hbusy, hdone, hhaz, hbusErr, hport⟩ := keepsConfiguration_of_exec h
  refine ⟨hregs, hbusy, hdone, hhaz, hbusErr, keepsAllBut_of_exec h .img ?_, hport⟩
  cases i with
  | fwd ax bs => cases ax <;> simp [writtenMems, coefName]
  | _ => simp [writtenMems]

/-- Settles O60: the commands whose list of written memories holds a memory are those the statement names. -/
theorem writersOfEachMemory : Obligations.WritersOfEachMemory := by
  unfold Obligations.WritersOfEachMemory
  intro i s t h
  have keeps (m : MemName) (hm : m ∉ writtenMems i) : keepsMem s t m := keepsAllBut_of_exec h m hm
  refine ⟨fun h1 h2 => ⟨keeps _ ?_, keeps _ ?_⟩, fun h1 => keeps _ ?_, fun h1 => keeps _ ?_, fun h1 => keeps _ ?_,
    fun h1 => ⟨keeps _ ?_, keeps _ ?_⟩, fun h1 h2 => ⟨keeps _ ?_, keeps _ ?_⟩, fun h1 => keeps _ ?_⟩
  all_goals
    cases i with
    | fwd ax bs => cases ax <;> simp_all [writtenMems, coefName]
    | _ => simp_all [writtenMems]

/-- Settles O46: CBUF_CLEAR is `clearStream`, which touches two registers only. -/
theorem nopAndCbufClearComplete : Obligations.NopAndCbufClearComplete := by
  unfold Obligations.NopAndCbufClearComplete
  intro s
  exact ⟨rfl, _, rfl, rfl, (keepsAllBut_clearStream s).keepsMems fun _ _ => List.not_mem_nil, rfl, rfl, rfl⟩

end Sys2Proof.Machine
end

section
/-! SUPPORT. The Engine's turn, the step it makes, and that the port's record of inputs is only read to place the next
step (20_memory.md R116, 43_control.md R252, 70_reset_and_hazards.md R303). -/

namespace Sys2Proof.Machine

theorem exec_total (i : Instr) (s : State) : ∃ t, exec i s = .next t :=
  (exec_outcome i s).imp fun _ h => h.1

/-- An Engine step with a command pending ends with BUSY = 0 (43_control.md R252). -/
theorem engineStep_of_busy {s : State} (hb : s.regs.status.busy = true) : ∃ t, engineStep s = .next (complete t) := by
  rcases engineStep_cases s with ⟨hidle, -⟩ | ⟨i, -, -, h⟩ | ⟨r, -, -, h⟩
  · cases hb.symm.trans hidle
  · obtain ⟨t, ht⟩ := exec_total i s
    exact ⟨t, by rw [h, ht, completed]⟩
  · exact ⟨_, h⟩

theorem engineStep_of_idle {s : State} (hb : s.regs.status.busy = false) : engineStep s = .next s := by
  rw [engineStep, hb]
  rfl

theorem engineStep_of_decode {s t : State} {i : Instr} (hb : s.regs.status.busy = true) (hd : decode s.regs.pend = .ok i)
    (hexec : exec i s = .next t) : engineStep s = .next (complete t) := by
  rw [engineStep, if_pos hb, performPending, hd]
  exact congrArg completed hexec

theorem engineStep_of_reject {s : State} {r : Reject} (hb : s.regs.status.busy = true)
    (hd : decode s.regs.pend = .error r) : engineStep s = .next (complete (raise .illegalCmd s)) := by
  rw [engineStep, if_pos hb, performPending, hd]
  rfl

theorem engineStep_total (s : State) : ∃ t, engineStep s = .next t := by
  cases hb : s.regs.status.busy with
  | false => exact ⟨s, engineStep_of_idle hb⟩
  | true => exact (engineStep_of_busy hb).imp' complete fun _ => id

/-- At the Engine's turn the step is the Engine's, on a state that differs in the inputs only. -/
theorem step_of_engineTurn {s s0 : State} (h : EngineTurn s s0) : step s = engineStep s0 ∧ s0.regs = s.regs := by
  rcases h with ⟨hin, rfl⟩ | ⟨rest, hin, rfl⟩
  · exact ⟨by rw [step, nextStep, hin], rfl⟩
  · exact ⟨by rw [step, nextStep, hin]; rfl, rfl⟩

/-! ### Host transactions and the inputs -/

theorem regWrite_inputs (v : Word) (r : Reg) (s : State) : (regWrite v r s).inputs = s.inputs := by
  cases r with
  | ctrl => exact apply_ite State.inputs (v.getLsbD 3 = true) (softReset s) (mapRegs _ s) |>.trans (ite_self _)
  | cmd =>
    exact apply_ite State.inputs (s.regs.status.busy = true) (raiseFor v .busyReject s) (accept v s) |>.trans (ite_self _)
  | _ => rfl

theorem targetWrite_inputs (v : Word) (t : Target) (s : State) : (targetWrite v t s).inputs = s.inputs := by
  cases t with
  | reg r => exact regWrite_inputs v r s
  | _ => rfl

theorem hostStep_inputs (t : Transaction) (s : State) : (hostStep t s).inputs = s.inputs := by
  cases t with
  | read off size =>
    change (hostRead off size s).2.inputs = s.inputs
    rcases hostRead_cases off size s with ⟨-, h⟩ | ⟨_, -, -, -, h⟩ | ⟨_, -, -, h⟩ <;> rw [h] <;> rfl
  | write off size v =>
    change (hostWrite off size v s).inputs = s.inputs
    rcases hostWrite_cases off size v s with ⟨-, h⟩ | ⟨_, -, -, -, -, h⟩ | ⟨t, -, -, -, h⟩ <;> rw [h]
    · rfl
    · rfl
    · exact targetWrite_inputs v t s

theorem run_one_of_step {s t : State} (h : step s = .next t) : Sys2Proof.core.run 1 s = .next t :=
  run_succ_of_step h

/-- The pending command ends with the Engine's step or a reset; a transaction that does neither takes an input. -/
theorem exists_run_to_idle (inputs : List Input) :
    ∀ s : State, s.inputs = inputs → s.regs.status.busy = true →
      ∃ k t, k ≤ inputs.length + 1 ∧ Sys2Proof.core.run k s = .next t ∧ t.regs.status.busy = false := by
  induction inputs with
  | nil =>
    intro s hin hb
    obtain ⟨t, ht⟩ := engineStep_of_busy hb
    exact ⟨1, complete t, le_rfl, run_one_of_step (by rw [step, nextStep, hin, ht]), rfl⟩
  | cons i rest ih =>
    intro s hin hb
    cases i with
    | engine =>
      obtain ⟨t, ht⟩ := engineStep_of_busy (s := { s with inputs := rest }) hb
      exact ⟨1, complete t, by simp, run_one_of_step (by rw [step, nextStep, hin]; exact ht), rfl⟩
    | hardReset =>
      exact ⟨1, hardReset { s with inputs := rest }, by simp, run_one_of_step (by rw [step, nextStep, hin]; rfl), rfl⟩
    | host t =>
      have hstep : step s = .next (hostStep t { s with inputs := rest }) := by rw [step, nextStep, hin]; rfl
      cases hbusy : (hostStep t { s with inputs := rest }).regs.status.busy with
      | false => exact ⟨1, _, by simp, run_one_of_step hstep, hbusy⟩
      | true =>
        obtain ⟨k, u, hk, hrun, hu⟩ := ih _ (hostStep_inputs t _) hbusy
        exact ⟨k + 1, u, Nat.succ_le_succ hk, (run_succ_of_step hstep).trans hrun, hu⟩

/-! ### A host program of one command -/

/-- A read of STATUS at the head of the inputs. -/
theorem step_of_rdStatus {s : State} {rest : List Input} (h : s.inputs = rdReg .status ++ rest) :
    step s = .next { s with inputs := rest, replies := statusWord s.regs.status :: s.replies } := by
  have hin : s.inputs = .host (.read (regOffset .status) 4) :: rest := h
  rw [step, nextStep, hin]
  simp only [inputStep, hostStep, hostRead_regOffset, regRead]

theorem step_of_engine {s t : State} {i : Instr} {rest : List Input} (h : s.inputs = .engine :: rest)
    (hb : s.regs.status.busy = true) (hd : decode s.regs.pend = .ok i) (hexec : exec i { s with inputs := rest } = .next t) :
    step s = .next (complete t) := by
  rw [step, nextStep, h]
  exact engineStep_of_decode (s := { s with inputs := rest }) hb hd hexec

/-- The polls of `wait` change nothing and answer STATUS each time (30_encoding.md R141). -/
theorem run_pollStatus (polls k : Nat) (s : State) (rest : List Input) (h : s.inputs = pollStatus polls ++ rest) :
    Sys2Proof.core.run (polls + k) s = Sys2Proof.core.run k { s with
      inputs := rest, replies := List.replicate polls (statusWord s.regs.status) ++ s.replies } := by
  induction polls generalizing s with
  | zero =>
    obtain rfl : s.inputs = rest := h
    rw [Nat.zero_add]
    rfl
  | succ n ih =>
    rw [pollStatus, List.append_assoc] at h
    rw [Nat.succ_add, run_succ_of_step (step_of_rdStatus h), ih _ rfl]
    simp only [List.replicate_succ', List.append_assoc, List.singleton_append]

theorem getLsbD_bitAt (b : Bool) (i j : Nat) : (bitAt b i).getLsbD j = (b && decide (j = i) && decide (j < 32)) := by
  cases b with
  | false => simp [bitAt]
  | true =>
    have hone : (1 : Word) <<< i = BitVec.twoPow 32 i := rfl
    rw [bitAt, if_pos rfl, hone, BitVec.getLsbD_twoPow, Bool.true_and]
    by_cases hj : i = j
    · subst hj
      simp
    · simp [hj, Ne.symm hj]

/-- BUSY is bit 0 of STATUS (10_state.md R41). -/
theorem getLsbD_statusWord_zero (f : Status) : (statusWord f).getLsbD 0 = f.busy := by
  simp only [statusWord, BitVec.getLsbD_or, getLsbD_bitAt]
  simp

end Sys2Proof.Machine
end

section
/-! PROOFS. The statements about steps, issue and errors (43_control.md R250 to R255, 60_exceptions.md R260 to R281,
70_reset_and_hazards.md R303). -/

namespace Sys2Proof.Machine

/-- Settles O5: the step is the Engine's, and completing it sets the two flags. -/
theorem stepRunsDecodedCommand : Obligations.StepRunsDecodedCommand := by
  unfold Obligations.StepRunsDecodedCommand
  intro s s0 t i hturn hb hd hexec
  obtain ⟨hstep, hregs⟩ := step_of_engineTurn hturn
  rw [← hregs] at hb hd
  exact hstep.trans (engineStep_of_decode hb hd hexec)

/-- Settles O6: a word that decodes to no command is rejected, and the raise is completed. -/
theorem illegalWordRaises : Obligations.IllegalWordRaises := by
  unfold Obligations.IllegalWordRaises
  intro s s0 hturn hb hd
  obtain ⟨hstep, hregs⟩ := step_of_engineTurn hturn
  rw [← hregs] at hb hd ⊢
  cases hdec : decode s0.regs.pend with
  | ok i => exact absurd hdec (hd i)
  | error r => exact hstep.trans (engineStep_of_reject hb hdec)

/-- Settles O7: every kind of step answers a next state. -/
theorem everyStepGoesOn : Obligations.EveryStepGoesOn := by
  unfold Obligations.EveryStepGoesOn
  intro s
  rcases step_cases s with ⟨-, h⟩ | ⟨rest, -, h⟩ | ⟨rest, -, h⟩ | ⟨rest, t, -, h⟩
  · exact h ▸ engineStep_total s
  · exact h ▸ engineStep_total _
  · exact ⟨_, h⟩
  · exact ⟨_, h⟩

/-- Settles O8: by induction on the inputs to come. -/
theorem pendingCommandEnds : Obligations.PendingCommandEnds := by
  unfold Obligations.PendingCommandEnds
  exact fun s hb => exists_run_to_idle s.inputs s rfl hb

/-- A CMD write is performed in every state (20_memory.md R111). -/
theorem hostWrite_cmd (v : Word) (s : State) : hostWrite 0x02C 4 v s = writeCmd v s :=
  hostWrite_regOffset_of_writableBusy v (r := .cmd) rfl s

/-- Settles O9: an idle block accepts the word. -/
theorem cmdWriteAccepted : Obligations.CmdWriteAccepted := by
  unfold Obligations.CmdWriteAccepted
  intro s v hb
  rw [hostWrite_cmd, writeCmd, hb]
  rfl

/-- Settles O10: a busy block raises BUSY_REJECT for the written word. -/
theorem cmdWriteRejectedWhileBusy : Obligations.CmdWriteRejectedWhileBusy := by
  unfold Obligations.CmdWriteRejectedWhileBusy
  intro s v hb
  rw [hostWrite_cmd, writeCmd_of_busy v hb]
  rfl

theorem raise_of_err {e : ErrCode} {s : State} (h : s.regs.status.err = true) : raise e s = s := by
  have hstatus : { s.regs.status with err := true } = s.regs.status := by rw [← h]
  rw [raise, raiseFor, hstatus, if_pos h, if_pos h]

theorem raise_of_no_err {e : ErrCode} {s : State} (h : s.regs.status.err = false) :
    raise e s = { s with regs := { s.regs with
      errCode := errCodeValue e, errCmd := s.regs.pend, status := { s.regs.status with err := true } } } := by
  rw [raise, raiseFor, if_neg (ne_true_of_eq_false h), if_neg (ne_true_of_eq_false h)]

/-- Settles O11: the codes by evaluation, the two cases of a raise, and the acknowledging write of STATUS. -/
theorem firstErrorIsKept : Obligations.FirstErrorIsKept := by
  unfold Obligations.FirstErrorIsKept
  refine ⟨by decide, fun e s => ⟨raise_of_err, raise_of_no_err, fun v hv => ?_⟩⟩
  have hwrite : hostWrite 0x024 4 v (raise e s) = acknowledge v (raise e s) :=
    hostWrite_regOffset_of_writableBusy v (r := .status) rfl _
  simp [hwrite, statusAfterW1C, hv]

/-- Settles O13: the CMD write, the polls, the Engine's step and the last read, one step each. -/
theorem runPerformsCommand : Obligations.RunPerformsCommand := by
  unfold Obligations.RunPerformsCommand
  intro s i polls rest hwf hb hin
  have hissue : step s = .next { accept (encode i) s with
      inputs := pollStatus polls ++ (.engine :: (rdReg .status ++ rest)) } := by
    have hin' : s.inputs = .host (.write 0x02C 4 (encode i)) ::
        (pollStatus polls ++ (.engine :: (rdReg .status ++ rest))) := by
      rw [hin, runCommand, waitDone, List.append_assoc, List.append_assoc]
      rfl
    exact (step_of_hostWrite hin').trans (congrArg Host.Outcome.next (cmdWriteAccepted _ _ hb))
  obtain ⟨t, ht⟩ := exec_total i { accept (encode i) s with
    inputs := .host (.read 0x024 4) :: rest
    replies := List.replicate polls (statusWord (accept (encode i) s).regs.status) ++ s.replies }
  have hport := (keepsConfiguration_of_exec ht).port
  refine ⟨t, ht, ?_, getLsbD_statusWord_zero _, getLsbD_statusWord_zero _⟩
  have hlast : step (complete t) = .next { complete t with
      inputs := rest, replies := statusWord (complete t).regs.status :: t.replies } := step_of_rdStatus hport.1
  rw [run_succ_of_step hissue, run_pollStatus polls 2 _ _ rfl,
    run_succ_of_step (step_of_engine rfl rfl (decodeOfEncode i hwf) ht)]
  exact run_one_of_step hlast

end Sys2Proof.Machine
end

section
/-! PROOFS. The statements about reset and about the registers at the host port (10_state.md R34 to R65, 20_memory.md R91,
R95 to R97, 70_reset_and_hazards.md R290 to R292). -/

namespace Sys2Proof.Machine

theorem regsInv_reset : RegsInv Regs.reset where
  shape := ⟨Nat.zero_le _, Nat.zero_le _⟩
  grid := nofun
  derived := nofun
  coefRad := nofun
  coefAng := nofun
  stream := ⟨Nat.zero_le _, Nat.zero_le _⟩
  handshake := nofun
  errCode := by decide
  errCmd := fun _ => rfl
  converted := Nat.zero_le _
  decEnd := Nat.zero_le _

theorem memsInv_unwritten : MemsInv Mems.unwritten := by
  constructor <;> exact ⟨rfl, rfl⟩

/-- Settles O57: no cell is written after reset, and every register is within its bounds. -/
theorem resetMeetsInvariant : Obligations.ResetMeetsInvariant := by
  unfold Obligations.ResetMeetsInvariant
  exact ⟨regsInv_reset, memsInv_unwritten⟩

/-- The halves of a parameter register are numbers of 16 bits (10_state.md R35 to R39). -/
theorem halves_ofNat {hi lo : Nat} (hlo : lo < 65536) :
    halves (BitVec.ofNat 16 hi) (BitVec.ofNat 16 lo) = BitVec.ofNat 32 (hi * 65536 + lo) := by
  apply BitVec.eq_of_toNat_eq
  rw [halves, BitVec.toNat_append]
  simp only [BitVec.toNat_ofNat]
  rw [Nat.mod_eq_of_lt (by omega : lo < 2 ^ 16), ← Nat.shiftLeft_add_eq_or_of_lt (by omega), Nat.shiftLeft_eq]
  omega

/-- Settles O14: the constants by evaluation, the parameter registers by their bounds. -/
theorem resetRegisterWords : Obligations.ResetRegisterWords := by
  unfold Obligations.ResetRegisterWords
  have hs := Config.sMax_bounds
  have hw := Config.wMax_bounds
  have hn := Config.nMax_bounds
  have ht := Config.ltabMax_bounds
  refine ⟨by decide, rfl, rfl, halves_ofNat (by omega), halves_ofNat (by omega), halves_ofNat (by omega), rfl, ?_⟩
  exact (halves_ofNat (hi := 0) (by omega)).trans (by rw [Nat.zero_mul, Nat.zero_add])

/-- Settles O15: a CTRL write is performed in every state, and a hardware reset input is the next step. -/
theorem resetEvents : Obligations.ResetEvents := by
  unfold Obligations.ResetEvents
  intro s
  refine ⟨fun v hv => ?_, fun rest hin => ?_, rfl, rfl, rfl⟩
  · exact (hostWrite_regOffset_of_writableBusy v (r := .ctrl) rfl s).trans (writeCtrl_of_softReset hv s)
  · rw [step, nextStep, hin]
    rfl

theorem mapOffset_of_targetOf {off size : Nat} {t : Target} (h : targetOf off size = some t) :
    mapOffset off = some t := by
  unfold targetOf at h
  split at h
  · exact h
  · cases h

/-- Settles O16: such a transaction names no target, or one that is not writable. -/
theorem illegalAccessSetsBusErr : Obligations.IllegalAccessSetsBusErr := by
  unfold Obligations.IllegalAccessSetsBusErr
  intro s off size v
  refine ⟨fun h => ?_, fun t hmap hw => ?_⟩
  · have hnone : targetOf off size = none := by
      rw [targetOf]
      split
      case isTrue hlegal => exact (h.resolve_left (not_not_intro hlegal.1)).resolve_left (not_not_intro hlegal.2)
      case isFalse => rfl
    constructor
    · rw [hostRead, hnone]
      rfl
    · rw [hostWrite, hnone]
      rfl
  · have hreadonly : ∀ u, targetOf off size = some u → targetWritable u = false := fun u hu => by
      rwa [← Option.some.inj (hmap.symm.trans (mapOffset_of_targetOf hu))]
    rcases hostWrite_cases off size v s with ⟨-, h⟩ | ⟨u, hu, huw, -⟩ | ⟨u, hu, huw, -⟩
    · exact h
    · cases huw.symm.trans (hreadonly u hu)
    · cases huw.symm.trans (hreadonly u hu)

/-- Settles O23: CLEN is the one configuration register that is not stored as written. -/
theorem clenIsLegalised : Obligations.ClenIsLegalised := by
  unfold Obligations.ClenIsLegalised
  intro s v hb
  have hc := Config.cbufBytes_bounds
  have hwrite : hostWrite 0x068 4 v s = mapRegs (cfgWrite v .clen) s :=
    hostWrite_regOffset_of_idle v (r := .clen) rfl hb
  rw [hwrite]
  refine ⟨?_, rfl⟩
  simp only [mapRegs_regs, cfgWrite, legalClen, BitVec.toNat_ofNat]
  omega

end Sys2Proof.Machine
end

section
/-! SUPPORT. The address map in both directions: every target that exists is found at its offset, and an offset that
names a target is that target's (20_memory.md R93, R94, 30_encoding.md R138). -/

namespace Sys2Proof.Machine

theorem within_eq_some_iff {b : Bool} {t u : Target} : within b t = some u ↔ b = true ∧ t = u := by
  cases b <;> simp [within]

@[simp] theorem channelAt_channelIndex (c : Channel) : channelAt (channelIndex c) = some c := by
  cases c <;> rfl

theorem channelIndex_lt (c : Channel) : channelIndex c < 3 := by
  cases c <;> decide

theorem channelIndex_of_channelAt {i : Nat} {c : Channel} (h : channelAt i = some c) : channelIndex c = i := by
  unfold channelAt at h
  split at h <;> cases h <;> rfl

theorem decide_toNat_eq_one (b : Bool) : decide (b.toNat = 1) = b := by
  cases b <;> rfl

theorem toNat_decide_mod_two (n : Nat) : (decide (n % 2 = 1)).toNat = n % 2 := by
  rcases Nat.mod_two_eq_zero_or_one n with h | h <;> simp [h]

theorem cellInBounds_iff {sec l : Nat} : cellInBounds sec l = true ↔ sec < Config.sMax ∧ l < Config.lMax := by
  simp [cellInBounds]

/-! ### Every target is found at its offset -/

theorem mapOffset_convOffset {k : Nat} (hk : k < (Config.sMax + 31) / 32) : mapOffset (convOffset k) = some (.conv k) := by
  have hS := Config.sMax_bounds
  have region : 0x1000 ≤ convOffset k ∧ convOffset k < 0x1200 := by unfold convOffset; omega
  have word : (convOffset k - 0x1000) / 4 = k := by unfold convOffset; omega
  simp (disch := omega) only [mapOffset, if_neg, if_pos, word]
  exact within_of_true (decide_eq_true hk) _

theorem mapOffset_ltabOffset {e w : Nat} (he : e < Config.ltabMax) (hw : w < 4) :
    mapOffset (ltabOffset e w) = some (.ltab e w) := by
  have hT := Config.ltabMax_bounds
  have region : 0x10000 ≤ ltabOffset e w ∧ ltabOffset e w < 0x20000 := by unfold ltabOffset; omega
  have entry : (ltabOffset e w - 0x10000) / 4 / 4 = e := by unfold ltabOffset; omega
  have word : (ltabOffset e w - 0x10000) / 4 % 4 = w := by unfold ltabOffset; omega
  simp (disch := omega) only [mapOffset, if_neg, if_pos, entry, word]
  exact within_of_true (decide_eq_true he) _

theorem mapOffset_dbufOffset {p : Nat} (hp : p < 256) : mapOffset (dbufOffset p) = some (.dbuf p) := by
  have region : 0x20000 ≤ dbufOffset p ∧ dbufOffset p < 0x20400 := by unfold dbufOffset; omega
  have position : (dbufOffset p - 0x20000) / 4 = p := by unfold dbufOffset; omega
  simp (disch := omega) only [mapOffset, if_neg, if_pos, position]

theorem mapOffset_newOffset {sec l : Nat} (h : cellInBounds sec l = true) :
    mapOffset (newOffset sec l) = some (.new sec l) := by
  have hS := Config.sMax_bounds
  have hL := Config.lMax_bounds
  obtain ⟨hs, hl⟩ := cellInBounds_iff.1 h
  have region : 0x3800000 ≤ newOffset sec l ∧ newOffset sec l < 0x3C00000 := by unfold newOffset; omega
  have sector : (newOffset sec l - 0x3800000) / 4 / 256 = sec := by unfold newOffset; omega
  have light : (newOffset sec l - 0x3800000) / 4 % 256 = l := by unfold newOffset; omega
  simp (disch := omega) only [mapOffset, if_neg, if_pos, sector, light]
  exact within_of_true h _

theorem mapOffset_invOffset {sec l : Nat} (h : cellInBounds sec l = true) :
    mapOffset (invOffset sec l) = some (.inv sec l) := by
  have hS := Config.sMax_bounds
  have hL := Config.lMax_bounds
  obtain ⟨hs, hl⟩ := cellInBounds_iff.1 h
  have region : 0x3C00000 ≤ invOffset sec l ∧ invOffset sec l < 0x4000000 := by unfold invOffset; omega
  have sector : (invOffset sec l - 0x3C00000) / 4 / 256 = sec := by unfold invOffset; omega
  have light : (invOffset sec l - 0x3C00000) / 4 % 256 = l := by unfold invOffset; omega
  simp (disch := omega) only [mapOffset, if_neg, if_pos, sector, light]
  exact within_of_true h _

theorem wideTarget_of_index {sec l i : Nat} {c : Channel} (hl : l < 256) (h : cellInBounds sec l = true)
    (hi : i = 4 * (256 * sec + l) + channelIndex c) : wideTarget i = some (.wide sec l c) := by
  have hc := channelIndex_lt c
  have channel : i % 4 = channelIndex c := by omega
  have sector : i / 4 / 256 = sec := by omega
  have light : i / 4 % 256 = l := by omega
  simp only [wideTarget, channel, channelAt_channelIndex, sector, light]
  exact within_of_true h _

theorem mapOffset_wideOffset {sec l : Nat} (c : Channel) (h : cellInBounds sec l = true) :
    mapOffset (wideOffset sec l c) = some (.wide sec l c) := by
  have hS := Config.sMax_bounds
  have hL := Config.lMax_bounds
  have hc := channelIndex_lt c
  obtain ⟨hs, hl⟩ := cellInBounds_iff.1 h
  have region : 0x4000000 ≤ wideOffset sec l c ∧ wideOffset sec l c < 0x5000000 := by unfold wideOffset; omega
  simp (disch := omega) only [mapOffset, if_neg, if_pos]
  exact wideTarget_of_index (by omega) h (by unfold wideOffset; omega)

/-- The word index of a COEF word in its axis's window (20_memory.md R105). -/
theorem coefTarget_of_index {ax : Axis} {n k i : Nat} {c : Channel} {im high : Bool}
    (hk : k < coefStride ax) (h : coefInBounds ax n k = true)
    (hi : i = 16 * (coefStride ax * n + k) + 4 * channelIndex c + 2 * im.toNat + high.toNat) :
    coefTarget ax i = some (.coef ax n k c im high) := by
  have hc := channelIndex_lt c
  have him := im.toNat_lt
  have hhigh := high.toNat_lt
  have entry : i / 16 = coefStride ax * n + k := by omega
  have channel : i / 4 % 4 = channelIndex c := by omega
  have part : i / 2 % 2 = im.toNat := by omega
  have half : i % 2 = high.toNat := by omega
  have line : (coefStride ax * n + k) / coefStride ax = n := by
    rw [Nat.mul_add_div (by omega), Nat.div_eq_of_lt hk, Nat.add_zero]
  have index : (coefStride ax * n + k) % coefStride ax = k := by
    rw [Nat.mul_add_mod, Nat.mod_eq_of_lt hk]
  simp only [coefTarget, channel, channelAt_channelIndex, entry, line, index, part, half, decide_toNat_eq_one]
  exact within_of_true h _

theorem projTarget_of_index {ax : Axis} {n k : Nat} (im : Bool) (hk : k < coefStride ax)
    (h : coefInBounds ax n k = true) : projTarget ax im (coefStride ax * n + k) = some (.proj ax im n k) := by
  have line : (coefStride ax * n + k) / coefStride ax = n := by
    rw [Nat.mul_add_div (by omega), Nat.div_eq_of_lt hk, Nat.add_zero]
  have index : (coefStride ax * n + k) % coefStride ax = k := by
    rw [Nat.mul_add_mod, Nat.mod_eq_of_lt hk]
  simp only [projTarget, line, index]
  exact within_of_true h _

/-- Line n and entry k of a coefficient file within its bounds: entries below the stride, and all below 2^20. -/
theorem coefIndex_bounds {ax : Axis} {n k : Nat} (h : coefInBounds ax n k = true) :
    k < coefStride ax ∧ coefStride ax * n + k < 0x100000 := by
  have hS := Config.sMax_bounds
  have hL := Config.lMax_bounds
  cases ax with
  | rad =>
    obtain ⟨hs, hl⟩ := cellInBounds_iff.1 h
    simp only [coefStride]
    omega
  | ang =>
    obtain ⟨hs, hl⟩ := cellInBounds_iff.1 h
    simp only [coefStride]
    omega

theorem mapOffset_coefOffset {ax : Axis} {n k : Nat} (c : Channel) (im high : Bool) (h : coefInBounds ax n k = true) :
    mapOffset (coefOffset ax n k c im high) = some (.coef ax n k c im high) := by
  obtain ⟨hk, hsmall⟩ := coefIndex_bounds h
  have hc := channelIndex_lt c
  have him := im.toNat_lt
  have hhigh := high.toNat_lt
  cases ax with
  | rad =>
    simp (disch := (simp only [coefOffset]; omega)) only [mapOffset, if_neg, if_pos]
    exact coefTarget_of_index hk h (by simp only [coefOffset]; omega)
  | ang =>
    simp (disch := (simp only [coefOffset]; omega)) only [mapOffset, if_neg, if_pos]
    exact coefTarget_of_index hk h (by simp only [coefOffset]; omega)

theorem mapOffset_projOffset {ax : Axis} {n k : Nat} (im : Bool) (h : coefInBounds ax n k = true) :
    mapOffset (projOffset ax im n k) = some (.proj ax im n k) := by
  obtain ⟨hk, hsmall⟩ := coefIndex_bounds h
  have word {base : Nat} (hb : projOffset ax im n k = base + 4 * (coefStride ax * n + k)) :
      (projOffset ax im n k - base) / 4 = coefStride ax * n + k := by omega
  cases ax with
  | rad =>
    cases im with
    | false =>
      have hoff : projOffset .rad false n k = 0x10000000 + 4 * (coefStride .rad * n + k) := rfl
      simp (disch := omega) only [mapOffset, if_neg, if_pos, word hoff]
      exact projTarget_of_index _ hk h
    | true =>
      have hoff : projOffset .rad true n k = 0x10400000 + 4 * (coefStride .rad * n + k) := rfl
      simp (disch := omega) only [mapOffset, if_neg, if_pos, word hoff]
      exact projTarget_of_index _ hk h
  | ang =>
    cases im with
    | false =>
      have hoff : projOffset .ang false n k = 0x10800000 + 4 * (coefStride .ang * n + k) := rfl
      simp (disch := omega) only [mapOffset, if_neg, if_pos, word hoff]
      exact projTarget_of_index _ hk h
    | true =>
      have hoff : projOffset .ang true n k = 0x10C00000 + 4 * (coefStride .ang * n + k) := rfl
      simp (disch := omega) only [mapOffset, if_neg, if_pos, word hoff]
      exact projTarget_of_index _ hk h

/-- R93 read from names to offsets. -/
theorem mapOffset_targetOffset {t : Target} (h : targetExists t = true) : mapOffset (targetOffset t) = some t := by
  cases t with
  | reg r => exact mapOffset_of_targetOf (targetOf_regOffset r)
  | conv k => exact mapOffset_convOffset (of_decide_eq_true h)
  | ltab e w =>
    obtain ⟨he, hw⟩ := Bool.and_eq_true_iff.1 h
    exact mapOffset_ltabOffset (of_decide_eq_true he) (of_decide_eq_true hw)
  | dbuf p => exact mapOffset_dbufOffset (of_decide_eq_true h)
  | cbuf q => exact mapOffset_of_targetOf (targetOf_cbufOffset (of_decide_eq_true h))
  | img y x =>
    obtain ⟨hx, hy⟩ := Bool.and_eq_true_iff.1 h
    exact mapOffset_of_targetOf (targetOf_imgOffset (of_decide_eq_true hx) (of_decide_eq_true hy))
  | full sec l =>
    obtain ⟨hs, hl⟩ := cellInBounds_iff.1 h
    exact mapOffset_of_targetOf (targetOf_fullOffset hs hl)
  | ring l sec =>
    obtain ⟨hs, hl⟩ := cellInBounds_iff.1 h
    exact mapOffset_of_targetOf (targetOf_ringOffset hs hl)
  | new sec l => exact mapOffset_newOffset h
  | inv sec l => exact mapOffset_invOffset h
  | wide sec l c => exact mapOffset_wideOffset c h
  | coef ax n k c im high => exact mapOffset_coefOffset c im high h
  | proj ax im n k => exact mapOffset_projOffset im h

/-! ### Every mapped offset is its target's -/

/-- A target stands at an offset: it exists, and R93 places it there. -/
def StandsAt (t : Target) (off : Nat) : Prop := targetExists t = true ∧ targetOffset t = off

theorem standsAt_of_within {b : Bool} {t u : Target} {off : Nat} (h : within b t = some u)
    (hexists : b = true → targetExists t = true) (hoff : targetOffset t = off) : StandsAt u off := by
  obtain ⟨hb, rfl⟩ := within_eq_some_iff.1 h
  exact ⟨hexists hb, hoff⟩

theorem regOffset_of_mem_regTable : ∀ p ∈ regTable, regOffset p.2 = p.1 := by decide

theorem standsAt_of_regTable {off : Nat} {t : Target} (h : (regTable.lookup off).map .reg = some t) : StandsAt t off := by
  obtain ⟨r, hr, rfl⟩ := Option.map_eq_some_iff.1 h
  obtain ⟨l, l', hl, -⟩ := List.lookup_eq_some_iff.1 hr
  exact ⟨rfl, regOffset_of_mem_regTable (off, r) (by simp [hl])⟩

theorem standsAt_of_wideTarget {i off : Nat} {t : Target} (h : wideTarget i = some t) (hoff : off = 0x4000000 + 4 * i) :
    StandsAt t off := by
  unfold wideTarget at h
  split at h
  case h_1 c hc =>
    have hindex := channelIndex_of_channelAt hc
    refine standsAt_of_within h id ?_
    simp only [targetOffset, wideOffset]
    omega
  case h_2 => cases h

theorem coefOffset_eq_add (ax : Axis) (n k : Nat) (c : Channel) (im high : Bool) :
    coefOffset ax n k c im high = coefOffset ax 0 0 .red false false + 64 * (coefStride ax * n + k)
      + 16 * channelIndex c + 8 * im.toNat + 4 * high.toNat := by
  simp [coefOffset, channelIndex]

theorem standsAt_of_coefTarget {ax : Axis} {i off : Nat} {t : Target} (h : coefTarget ax i = some t)
    (hoff : off = coefOffset ax 0 0 .red false false + 4 * i) : StandsAt t off := by
  unfold coefTarget at h
  split at h
  case h_1 c hc =>
    have hindex := channelIndex_of_channelAt hc
    refine standsAt_of_within h id ?_
    rw [hoff, targetOffset, coefOffset_eq_add, hindex, toNat_decide_mod_two, toNat_decide_mod_two, Nat.div_add_mod]
    omega
  case h_2 => cases h

theorem standsAt_of_projTarget {ax : Axis} {im : Bool} {i off : Nat} {t : Target} (h : projTarget ax im i = some t)
    (hoff : off = projOffset ax im 0 0 + 4 * i) : StandsAt t off := by
  refine standsAt_of_within h id ?_
  have hdiv := Nat.div_add_mod i (coefStride ax)
  simp only [hoff, targetOffset, projOffset, hdiv]
  omega

/-- R93 read from offsets to names, region by region. -/
theorem standsAt_of_mapOffset {off : Nat} {t : Target} (haligned : off % 4 = 0) (h : mapOffset off = some t) :
    StandsAt t off := by
  rw [mapOffset] at h
  by_cases r0 : off < 0x1000
  · rw [if_pos r0] at h
    exact standsAt_of_regTable h
  rw [if_neg r0] at h
  by_cases r1 : off < 0x1200
  · rw [if_pos r1] at h
    exact standsAt_of_within h id (by simp only [targetOffset, convOffset]; omega)
  rw [if_neg r1] at h
  by_cases r2 : off < 0x10000
  · rw [if_pos r2] at h
    cases h
  rw [if_neg r2] at h
  by_cases r3 : off < 0x20000
  · rw [if_pos r3] at h
    refine standsAt_of_within h (fun hb => ?_) (by simp only [targetOffset, ltabOffset]; omega)
    exact Bool.and_eq_true_iff.2 ⟨hb, decide_eq_true (Nat.mod_lt _ (by omega))⟩
  rw [if_neg r3] at h
  by_cases r4 : off < 0x20400
  · rw [if_pos r4] at h
    cases h
    exact ⟨decide_eq_true (by omega), by simp only [targetOffset, dbufOffset]; omega⟩
  rw [if_neg r4] at h
  by_cases r5 : off < 0x1000000
  · rw [if_pos r5] at h
    cases h
  rw [if_neg r5] at h
  by_cases r6 : off < 0x2000000
  · rw [if_pos r6] at h
    exact standsAt_of_within h id (by simp only [targetOffset, cbufOffset]; omega)
  rw [if_neg r6] at h
  by_cases r7 : off < 0x3000000
  · rw [if_pos r7] at h
    exact standsAt_of_within h id (by simp only [targetOffset, imgOffset]; omega)
  rw [if_neg r7] at h
  by_cases r8 : off < 0x3400000
  · rw [if_pos r8] at h
    exact standsAt_of_within h id (by simp only [targetOffset, fullOffset]; omega)
  rw [if_neg r8] at h
  by_cases r9 : off < 0x3800000
  · rw [if_pos r9] at h
    exact standsAt_of_within h id (by simp only [targetOffset, ringOffset]; omega)
  rw [if_neg r9] at h
  by_cases r10 : off < 0x3C00000
  · rw [if_pos r10] at h
    exact standsAt_of_within h id (by simp only [targetOffset, newOffset]; omega)
  rw [if_neg r10] at h
  by_cases r11 : off < 0x4000000
  · rw [if_pos r11] at h
    exact standsAt_of_within h id (by simp only [targetOffset, invOffset]; omega)
  rw [if_neg r11] at h
  by_cases r12 : off < 0x5000000
  · rw [if_pos r12] at h
    exact standsAt_of_wideTarget h (by omega)
  rw [if_neg r12] at h
  by_cases r13 : off < 0x8000000
  · rw [if_pos r13] at h
    cases h
  rw [if_neg r13] at h
  by_cases r14 : off < 0xC000000
  · rw [if_pos r14] at h
    exact standsAt_of_coefTarget h (by simp only [coefOffset, channelIndex, Bool.toNat_false]; omega)
  rw [if_neg r14] at h
  by_cases r15 : off < 0x10000000
  · rw [if_pos r15] at h
    exact standsAt_of_coefTarget h (by simp only [coefOffset, channelIndex, Bool.toNat_false]; omega)
  rw [if_neg r15] at h
  by_cases r16 : off < 0x10400000
  · rw [if_pos r16] at h
    exact standsAt_of_projTarget h (by simp only [projOffset, Bool.toNat_false]; omega)
  rw [if_neg r16] at h
  by_cases r17 : off < 0x10800000
  · rw [if_pos r17] at h
    exact standsAt_of_projTarget h (by simp only [projOffset, Bool.toNat_true]; omega)
  rw [if_neg r17] at h
  by_cases r18 : off < 0x10C00000
  · rw [if_pos r18] at h
    exact standsAt_of_projTarget h (by simp only [projOffset, Bool.toNat_false]; omega)
  rw [if_neg r18] at h
  by_cases r19 : off < 0x11000000
  · rw [if_pos r19] at h
    exact standsAt_of_projTarget h (by simp only [projOffset, Bool.toNat_true]; omega)
  rw [if_neg r19] at h
  cases h

end Sys2Proof.Machine
end

section
/-! SUPPORT. What the read-only windows return, word by word (20_memory.md R101 to R109). -/

namespace Sys2Proof.Machine

theorem targetOffset_aligned (t : Target) : targetOffset t % 4 = 0 := by
  cases t with
  | reg r => cases r <;> rfl
  | coef ax n k c im high => cases ax <;> simp only [targetOffset, coefOffset] <;> omega
  | proj ax im n k => cases ax <;> simp only [targetOffset, projOffset] <;> omega
  | _ =>
    simp only [targetOffset, convOffset, ltabOffset, dbufOffset, cbufOffset, imgOffset, fullOffset, ringOffset, newOffset,
      invOffset, wideOffset]
    omega

theorem targetOf_targetOffset {t : Target} (h : targetExists t = true) : targetOf (targetOffset t) 4 = some t :=
  (targetOf_of_aligned (targetOffset_aligned t)).trans (mapOffset_targetOffset h)

/-- While no command is pending, a read at the offset of a target gives its word and changes nothing. -/
theorem hostRead_targetOffset {s : State} {t : Target} (hb : s.regs.status.busy = false) (h : targetExists t = true) :
    hostRead (targetOffset t) 4 s = (targetRead s t, s) :=
  hostRead_of_performed (targetOf_targetOffset h) (.inl hb)

/-- Flags put together bit by bit: each stands at its own bit. -/
theorem getLsbD_foldl_bitAt (f : Nat → Bool) (n : Nat) (w : Word) (j : Nat) (hj : j < 32) :
    ((List.range n).foldl (fun w b => w ||| bitAt (f b) b) w).getLsbD j = (w.getLsbD j || (decide (j < n) && f j)) := by
  induction n with
  | zero => simp
  | succ n ih =>
    rw [List.range_succ, List.foldl_append, List.foldl_cons, List.foldl_nil, BitVec.getLsbD_or, ih, getLsbD_bitAt]
    rcases Nat.lt_trichotomy j n with hlt | heq | hgt
    · simp [hlt, Nat.lt_succ_of_lt hlt, Nat.ne_of_lt hlt]
    · subst heq
      simp [hj]
    · simp [Nat.ne_of_gt hgt, Nat.not_lt_of_gt hgt, Nat.not_lt_of_ge hgt]

/-- A word of the CONV bitmap (20_memory.md R102). -/
theorem getLsbD_convBitmap (s : State) (k : Nat) {b : Nat} (hb : b < 32) :
    (convBitmap s k).getLsbD b = (decide (32 * k + b < Config.sMax) && readConv s (32 * k + b)) := by
  rw [convBitmap, getLsbD_foldl_bitAt (fun b => decide (32 * k + b < Config.sMax) && readConv s (32 * k + b)) 32 0 b hb]
  simp [hb]

/-- A color word has a zero byte above its channels (20_memory.md R98). -/
theorem colorWord_pack (r g b : BitVec 8) : colorWord (pack r g b) = (0 : BitVec 8) ++ r ++ g ++ b := by
  apply BitVec.eq_of_toNat_eq
  have hlt := (pack r g b).isLt
  rw [colorWord, BitVec.toNat_setWidth, Nat.mod_eq_of_lt (by omega), pack, BitVec.toNat_append, BitVec.toNat_append,
    BitVec.toNat_append, BitVec.toNat_append, BitVec.toNat_append, show (0 : BitVec 8).toNat = 0 from rfl,
    Nat.zero_shiftLeft, Nat.zero_or]

/-- The fourth word of a line table entry, field by field (10_state.md R80). -/
theorem ltabWord_three (e : LtabEntry) :
    ltabWord e 3 =
      (0 : BitVec 14) ++ BitVec.ofBool (decide (e.sr = .inv)) ++ BitVec.ofBool (decide (e.ax = .ang)) ++ e.line := by
  apply BitVec.eq_of_toNat_eq
  have hline := e.line.isLt
  have hmod : e.line.toNat % 4294967296 = e.line.toNat := Nat.mod_eq_of_lt (by omega)
  rw [BitVec.toNat_append]
  cases hsr : e.sr <;> cases hax : e.ax <;> simp [ltabWord, hsr, hax, axisBit, bitAt, hmod]

end Sys2Proof.Machine
end

section
/-! PROOFS. The statements about the address map and the read-only windows (20_memory.md R93, R101 to R109). -/

namespace Sys2Proof.Machine

/-- Settles O19: both directions of the map. -/
theorem addressMapIsExact : Obligations.AddressMapIsExact := by
  unfold Obligations.AddressMapIsExact
  intro off t haligned
  refine ⟨standsAt_of_mapOffset haligned, ?_⟩
  rintro ⟨hexists, rfl⟩
  exact mapOffset_targetOffset hexists

/-- Settles O22: each word's target exists within its bounds, and is read as its rule gives it. -/
theorem resultWindows : Obligations.ResultWindows := by
  unfold Obligations.ResultWindows
  intro s hb
  have read (t : Target) (h : targetExists t = true) : hostRead (targetOffset t) 4 s = (targetRead s t, s) :=
    hostRead_targetOffset hb h
  refine ⟨fun k b hk hbit => ?conv, fun sec l hs hl => ?grid, fun ax n k hbounds => ?coef, fun e he => ?ltab,
    fun p hp => read (.dbuf p) (decide_eq_true hp)⟩
  case conv =>
    have hread : hostRead (convOffset k) 4 s = (convBitmap s k, s) := read (.conv k) (decide_eq_true hk)
    rw [hread]
    exact ⟨getLsbD_convBitmap s k hbit, rfl⟩
  case grid =>
    have hcell : cellInBounds sec l = true := cellInBounds_iff.2 ⟨hs, hl⟩
    refine ⟨?_, read (.inv sec l) hcell, fun c => read (.wide sec l c) hcell⟩
    refine (read (.new sec l) hcell).trans ?_
    cases h : readNew s sec l <;> simp only [targetRead, h] <;> rfl
  case coef =>
    have hin : coefInBounds ax n k = true := by
      cases ax with
      | rad => exact cellInBounds_iff.2 hbounds
      | ang => exact cellInBounds_iff.2 hbounds.symm
    refine ⟨fun c => ⟨read (.coef ax n k c false false) hin, read (.coef ax n k c false true) hin,
      read (.coef ax n k c true false) hin, read (.coef ax n k c true true) hin⟩, ?_, ?_⟩
    · exact (read (.proj ax false n k) hin).trans (congrArg (·, s) (colorWord_pack _ _ _))
    · exact (read (.proj ax true n k) hin).trans (congrArg (·, s) (colorWord_pack _ _ _))
  case ltab =>
    have hentry (w : Nat) (hw : w < 4) : hostRead (ltabOffset e w) 4 s = (ltabWord (readLtab s e) w, s) :=
      read (.ltab e w) (Bool.and_eq_true_iff.2 ⟨decide_eq_true he, decide_eq_true hw⟩)
    exact ⟨hentry 0 (by decide), hentry 1 (by decide), hentry 2 (by decide),
      (hentry 3 (by decide)).trans (congrArg (·, s) (ltabWord_three _))⟩

end Sys2Proof.Machine
end

section
/-! SUPPORT. What the registers read after a configuration register is written (10_state.md R45 to R65, 20_memory.md R96,
R97). -/

namespace Sys2Proof.Machine

/-! ### The register written -/

theorem halves_low16 (v : Word) : halves 0 (low16 v) = v &&& 0xFFFF := by
  apply BitVec.eq_of_toNat_eq
  rw [BitVec.toNat_and, show (0xFFFF : Word).toNat = 2 ^ 16 - 1 from rfl, Nat.and_two_pow_sub_one_eq_mod, halves,
    BitVec.toNat_append]
  simp [low16]

theorem setWidth_low8 (v : Word) : (v.extractLsb' 0 8).setWidth 32 = v &&& 0xFF := by
  apply BitVec.eq_of_toNat_eq
  rw [BitVec.toNat_and, show (0xFF : Word).toNat = 2 ^ 8 - 1 from rfl, Nat.and_two_pow_sub_one_eq_mod]
  simp
  omega

theorem channelMaxima_word (v : Word) :
    ((0 : BitVec 8) ++ v.extractLsb' 16 8 ++ v.extractLsb' 8 8 ++ v.extractLsb' 0 8 : Word) = v &&& 0xFFFFFF := by
  have kept (x : Byte) : x &&& 255#8 = x := BitVec.and_allOnes
  rw [← lanes_append (v &&& 0xFFFFFF)]
  simp [BitVec.extractLsb'_and, kept]

theorem bitAt_getLsbD_zero (v : Word) : bitAt (v.getLsbD 0) 0 = v &&& 1 := by
  rw [show (1 : Word) = BitVec.twoPow 32 0 from rfl, BitVec.and_twoPow]
  rfl

theorem extract_low_setLow (x : F64) (v : Word) : (setLow x v).extractLsb' 0 32 = v :=
  BitVec.extractLsb'_append_eq_right

theorem extract_high_setLow (x : F64) (v : Word) : (setLow x v).extractLsb' 32 32 = x.extractLsb' 32 32 :=
  BitVec.extractLsb'_append_eq_left

theorem extract_low_setHigh (x : F64) (v : Word) : (setHigh x v).extractLsb' 0 32 = x.extractLsb' 0 32 :=
  BitVec.extractLsb'_append_eq_right

theorem extract_high_setHigh (x : F64) (v : Word) : (setHigh x v).extractLsb' 32 32 = v :=
  BitVec.extractLsb'_append_eq_left

/-- Each configuration register reads the bits its fields cover. -/
theorem regRead_cfgWrite_self (v : Word) (s : State) :
    ∀ p ∈ configFields, regRead (mapRegs (cfgWrite v p.1) s) p.1 = v &&& p.2 := by
  have whole : v = v &&& 0xFFFFFFFF := BitVec.and_allOnes.symm
  have low (x : F64) : (setLow x v).extractLsb' 0 32 = v &&& 0xFFFFFFFF := (extract_low_setLow x v).trans whole
  have high (x : F64) : (setHigh x v).extractLsb' 32 32 = v &&& 0xFFFFFFFF := (extract_high_setHigh x v).trans whole
  simp only [configFields, List.forall_mem_cons, List.not_mem_nil, false_imp_iff, implies_true, and_true]
  exact ⟨halves_low16 v, halves_low16 v, halves_low16 v, halves_low16 v, setWidth_low8 v, channelMaxima_word v,
    halves_low16 v, halves_low16 v, halves_low16 v, bitAt_getLsbD_zero v, whole, halves_low16 v, halves_low16 v,
    low _, high _, low _, high _, low _, high _, low _, high _, low _, high _⟩

/-! ### The other registers -/

theorem regRead_setF64 (x : F64) (q : F64Reg) (s : State) (r : Reg) :
    regRead { s with regs := setF64 x q s.regs } r =
      if r = f64RegLo q then x.extractLsb' 0 32 else if r = f64RegHi q then x.extractLsb' 32 32 else regRead s r := by
  cases q <;> cases r <;> rfl

theorem regRead_cfgWrite_f64RegLo (v : Word) (q : F64Reg) (s : State) {r : Reg} (h : r ≠ f64RegLo q) :
    regRead (mapRegs (cfgWrite v (f64RegLo q)) s) r = regRead s r := by
  have hwrite : mapRegs (cfgWrite v (f64RegLo q)) s = { s with regs := setF64 (setLow (f64Value q s.regs) v) q s.regs } := by
    cases q <;> rfl
  rw [hwrite, regRead_setF64, if_neg h, extract_high_setLow, ← regRead_f64RegHi]
  split
  case isTrue hr => rw [hr]
  case isFalse => rfl

theorem regRead_cfgWrite_f64RegHi (v : Word) (q : F64Reg) (s : State) {r : Reg} (h : r ≠ f64RegHi q) :
    regRead (mapRegs (cfgWrite v (f64RegHi q)) s) r = regRead s r := by
  have hwrite : mapRegs (cfgWrite v (f64RegHi q)) s = { s with regs := setF64 (setHigh (f64Value q s.regs) v) q s.regs } := by
    cases q <;> rfl
  rw [hwrite, regRead_setF64, if_neg h, extract_low_setHigh, ← regRead_f64RegLo]
  split
  case isTrue hr => rw [hr]
  case isFalse => rfl

/-- Only the register written reads differently. -/
theorem regRead_cfgWrite_of_ne (v : Word) (s : State) {r r' : Reg} (h : r' ≠ r) :
    regRead (mapRegs (cfgWrite v r) s) r' = regRead s r' := by
  have whole (hreads : ∀ q, regRead (mapRegs (cfgWrite v r) s) q =
      if q = r then regRead (mapRegs (cfgWrite v r) s) r else regRead s q) :
      regRead (mapRegs (cfgWrite v r) s) r' = regRead s r' := by rw [hreads, if_neg h]
  cases r with
  | gammaLo => exact regRead_cfgWrite_f64RegLo v .gamma s h
  | gammaHi => exact regRead_cfgWrite_f64RegHi v .gamma s h
  | cxLo => exact regRead_cfgWrite_f64RegLo v .cx s h
  | cxHi => exact regRead_cfgWrite_f64RegHi v .cx s h
  | cyLo => exact regRead_cfgWrite_f64RegLo v .cy s h
  | cyHi => exact regRead_cfgWrite_f64RegHi v .cy s h
  | rinLo => exact regRead_cfgWrite_f64RegLo v .rin s h
  | rinHi => exact regRead_cfgWrite_f64RegHi v .rin s h
  | routLo => exact regRead_cfgWrite_f64RegLo v .rout s h
  | routHi => exact regRead_cfgWrite_f64RegHi v .rout s h
  | _ => exact whole fun q => by cases q <;> rfl

/-- A configuration write is a change of one field of the registers. -/
theorem regWrite_of_configField (v : Word) (s : State) :
    ∀ p ∈ configFields, regWrite v p.1 s = mapRegs (cfgWrite v p.1) s := by
  simp only [configFields, List.forall_mem_cons, List.not_mem_nil, false_imp_iff, implies_true, and_true]
  exact ⟨rfl, rfl, rfl, rfl, rfl, rfl, rfl, rfl, rfl, rfl, rfl, rfl, rfl, rfl, rfl, rfl, rfl, rfl, rfl, rfl, rfl, rfl, rfl⟩

theorem cfgWrite_pend (v : Word) (r : Reg) (g : Regs) : (cfgWrite v r g).pend = g.pend := by
  cases r <;> rfl

end Sys2Proof.Machine
end

section
/-! PROOFS. The statement about writes of configuration registers (20_memory.md R96, R113). -/

namespace Sys2Proof.Machine

/-- Settles O25: an idle block performs the write, which changes one field. -/
theorem configurationWritesStore : Obligations.ConfigurationWritesStore := by
  unfold Obligations.ConfigurationWritesStore
  intro s v r mask hb hr
  have hw : regWritable r = true :=
    (configuration_writable_when_idle r (List.mem_cons_of_mem _ (List.mem_map_of_mem (f := Prod.fst) hr))).1
  have hwrite : hostWrite (regOffset r) 4 v s = mapRegs (cfgWrite v r) s :=
    (hostWrite_regOffset_of_idle v hw hb).trans (regWrite_of_configField v s (r, mask) hr)
  rw [hwrite]
  exact ⟨regRead_cfgWrite_self v s (r, mask) hr, fun r' h => regRead_cfgWrite_of_ne v s h, cfgWrite_pend v r s.regs,
    rfl, rfl, rfl, rfl⟩

end Sys2Proof.Machine
end

section
/-! PROOFS. The statements about where commands raise their errors, and the order of the coefficient sums (40_sampler.md
R151, R170, 41_transform.md R182 to R191, 42_codec.md R220 to R231). -/

namespace Sys2Proof.Machine

theorem checkFwd_of_no_grid {s : State} (h : s.regs.status.gridValid = false) : checkFwd s = some .notSampled := by
  rw [checkFwd, h]
  rfl

theorem checkFwd_of_bad_block {s : State} (h : s.regs.status.gridValid = true)
    (hN : ¬ (1 ≤ s.regs.ftN.toNat ∧ s.regs.ftN.toNat ≤ Config.nMax)) : checkFwd s = some .badConfig := by
  rw [checkFwd, h, ← Bool.decide_and, decide_eq_false hN]
  rfl

theorem execFwd_of_error {ax : Axis} {bs : Basis} {s : State} {e : ErrCode} (h : checkFwd s = some e) :
    execFwd ax bs s = .next (raise e s) := by
  rw [execFwd, h]

/-- Settles O34: each command's check fails, with the error of its rule. -/
theorem sampleAndTransformRefusals : Obligations.SampleAndTransformRefusals := by
  unfold Obligations.SampleAndTransformRefusals
  intro s ax bs
  refine ⟨fun hnot => ?sample, fun hnot => ?gridLoad, fun h => execFwd_of_error (checkFwd_of_no_grid h),
    fun h hN => execFwd_of_error (checkFwd_of_bad_block h hN), fun h => ?inv⟩
  case sample =>
    rcases execSample_cases s with ⟨hr, -⟩ | ⟨-, h⟩
    · exact absurd hr hnot
    · exact h
  case gridLoad =>
    rcases execGridLoad_cases s with ⟨hr, -⟩ | ⟨-, h⟩
    · exact absurd hr hnot
    · exact h
  case inv =>
    rcases execInv_cases ax s with ⟨hv, -⟩ | ⟨-, hexec⟩
    · cases h.symm.trans hv
    · exact hexec

/-! ### The encode commands -/

theorem execHencLine_of_check {ax : Axis} {sr : Source} {idx : Nat} {s : State} {e : ErrCode}
    (h : checkHenc sr s = some e) : execHencLine ax sr idx s = .next (raise e s) := by
  rw [execHencLine, h]

theorem execHencAll_of_check {ax : Axis} {sr : Source} {s : State} {e : ErrCode} (h : checkHenc sr s = some e) :
    execHencAll ax sr s = .next (raise e s) := by
  rw [execHencAll, h]

/-- A HENC_LINE with a valid source and an existing line answers as its append does (42_codec.md R222). -/
theorem execHencLine_of_valid {ax : Axis} {sr : Source} {idx : Nat} {s : State} (hv : SourceValid sr s)
    (hidx : idx < lineCount s ax) :
    (∀ t, appendLine (codecLine s sr ax idx) ax sr idx s = .ok t → execHencLine ax sr idx s = .next t) ∧
    (∀ e, appendLine (codecLine s sr ax idx) ax sr idx s = .error e → execHencLine ax sr idx s = .next (raise e s)) := by
  rw [execHencLine, (checkHenc_eq_none_iff sr s).2 hv]
  constructor
  · intro t h
    simp only [if_neg (Nat.not_le.2 hidx), h]
  · intro e h
    simp only [if_neg (Nat.not_le.2 hidx), h]

theorem appendLine_of_full {x : List Color} {ax : Axis} {sr : Source} {n : Nat} {s : State}
    (h : s.regs.lcnt.toNat = Config.ltabMax) : appendLine x ax sr n s = .error .ltabOverflow := by
  rw [appendLine]
  exact if_pos h

theorem appendLine_of_no_room {x : List Color} {ax : Axis} {sr : Source} {n : Nat} {s : State}
    (h : s.regs.lcnt.toNat ≠ Config.ltabMax)
    (hroom : Config.cbufBytes < s.regs.clen.toNat + (encodeLine x).bytes.length) :
    appendLine x ax sr n s = .error .cbufOverflow := by
  rw [appendLine]
  exact (if_neg h).trans (if_pos hroom)

/-- Settles O43: the source's check comes first, then the line's existence, then the two checks of the append. -/
theorem encodeRefusals : Obligations.EncodeRefusals := by
  unfold Obligations.EncodeRefusals
  intro s ax sr idx
  refine ⟨fun h => ?full, fun h => ?inv,
    fun hv => ⟨fun hidx => ?index, fun hidx => ⟨fun hfull => ?table, fun hfree hroom => ?room⟩⟩⟩
  case full =>
    have hcheck : checkHenc .full s = some .notSampled := by
      rw [checkHenc, h]
      rfl
    exact ⟨execHencLine_of_check hcheck, execHencAll_of_check hcheck⟩
  case inv =>
    have hcheck : checkHenc .inv s = some .noInv := by
      rw [checkHenc, h]
      rfl
    exact ⟨execHencLine_of_check hcheck, execHencAll_of_check hcheck⟩
  case index =>
    change execHencLine ax sr idx s = _
    rw [execHencLine, (checkHenc_eq_none_iff sr s).2 hv]
    exact if_pos hidx
  case table => exact (execHencLine_of_valid hv hidx).2 _ (appendLine_of_full hfull)
  case room => exact (execHencLine_of_valid hv hidx).2 _ (appendLine_of_no_room hfree hroom)

/-! ### The decoder -/

theorem decByte_of_le {s : State} {q : Nat} (h : s.regs.clen.toNat ≤ q) : decByte s q = .error .decTruncated :=
  if_neg (Nat.not_lt.2 h)

theorem decByte_cases (s : State) (q : Nat) :
    (∃ b, decByte s q = .ok b) ∨ decByte s q = .error .decTruncated := by
  unfold decByte
  split
  · exact .inl ⟨_, rfl⟩
  · exact .inr rfl

theorem except_error_bind {α β : Type} (e : ErrCode) (g : α → Except ErrCode β) : (Except.error e >>= g) = .error e := rfl

/-- A tree word whose last byte is not below CLEN is not read, whichever byte fails first (42_codec.md R231, R232). -/
theorem treeBitAt_truncated {s : State} {o t : Nat} (h : s.regs.clen.toNat ≤ o + 4 * (t / 32) + 3) :
    treeBitAt (decByte s) o t = .error .decTruncated := by
  rw [treeBitAt]
  rcases decByte_cases s (o + 4 * (t / 32)) with ⟨b0, h0⟩ | h0
  · rcases decByte_cases s (o + 4 * (t / 32) + 1) with ⟨b1, h1⟩ | h1
    · rcases decByte_cases s (o + 4 * (t / 32) + 2) with ⟨b2, h2⟩ | h2
      · rw [h0, except_ok_bind, h1, except_ok_bind, h2, except_ok_bind, decByte_of_le h, except_error_bind]
      · rw [h0, except_ok_bind, h1, except_ok_bind, h2, except_error_bind]
    · rw [h0, except_ok_bind, h1, except_error_bind]
  · rw [h0, except_error_bind]

theorem readLine_truncated {s : State} {o r m : Nat} (hm : 1 ≤ m) (h : s.regs.clen.toNat < o + 4) :
    readLine (decByte s) o r m = .error .decTruncated := by
  obtain ⟨fuel, rfl⟩ := Nat.exists_eq_add_of_le' hm
  rw [readLine, parseTree, treeBitAt_truncated (by simp only; omega), except_error_bind, except_error_bind]

theorem execHdec_of_error {s : State} {e : ErrCode} (hready : HdecReady s)
    (h : readLine (decByte s) s.regs.decOff.toNat s.regs.decRuns.toNat s.regs.decLen.toNat = .error e) :
    execHdec s = .next (raise e s) := by
  rcases execHdec_cases s with ⟨hnot, -⟩ | ⟨e', -, herr, hexec⟩ | ⟨d, -, hok, -⟩
  · exact absurd hready hnot
  · obtain rfl := Except.error.inj (h.symm.trans herr)
    exact hexec
  · cases h.symm.trans hok

/-- Settles O48: the operands' check comes first, and every error of the stream is raised as it is. -/
theorem decodeRefusals : Obligations.DecodeRefusals := by
  unfold Obligations.DecodeRefusals
  intro s
  refine ⟨fun hnot => ?_, fun hready hshort => execHdec_of_error hready (readLine_truncated hready.1 hshort),
    fun e hready h => execHdec_of_error hready h⟩
  rcases execHdec_cases s with ⟨-, h⟩ | ⟨e, hready, -⟩ | ⟨d, hready, -⟩
  · exact h
  · exact absurd hready hnot
  · exact absurd hready hnot

/-! ### The coefficient sums -/

/-- Settles O36: each part is a weighted sum, and a sample at the end is the last term of the sum. -/
theorem coefficientSumsInOrder : Obligations.CoefficientSumsInOrder := by
  unfold Obligations.CoefficientSumsInOrder
  intro x u i N
  refine ⟨rfl, rfl, ?_, ?_⟩
  · rw [fourierCoef_eq, fourierCoef_eq, weightedSum_append_singleton, weightedSum_append_singleton]
  · rw [cosineCoef_eq, cosineCoef_eq, weightedSum_append_singleton]

end Sys2Proof.Machine
end

section
/-! SUPPORT. What a sampled column captures, and what the cells of a list of columns read as once they are written
(40_sampler.md R162 to R167). -/

namespace Sys2Proof.Machine

/-! ### Capture and expansion undo each other -/

theorem expandFrom_captureFrom (prev : Color) (x : List Color) : expandFrom prev (captureFrom prev x) = x := by
  induction x generalizing prev with
  | nil => rfl
  | cons c x ih =>
    have hkept : (if c ≠ prev then some c else none).getD prev = c := by
      by_cases h : c = prev <;> simp [h]
    rw [captureFrom, expandFrom, hkept, ih]

/-- What was left out is what the sector before holds, so expansion gives the sampled column back. -/
theorem expandColumn_captureColumn (x : List Color) : expandColumn (captureColumn x) = x := by
  cases x with
  | nil => rfl
  | cons c x => exact congrArg (c :: ·) (expandFrom_captureFrom c x)

theorem captureFrom_getElem? {prev c : Color} {x : List Color} {i : Nat} (hc : x[i]? = some c) :
    (captureFrom prev x)[i]? = some (if c ≠ ((prev :: x)[i]?).getD 0 then some c else none) := by
  induction x generalizing prev i with
  | nil => cases hc
  | cons d x ih =>
    cases i with
    | zero =>
      obtain rfl : d = c := by simpa using hc
      rfl
    | succ i => exact ih hc

/-- R162: a sector records its color when it is the first or the color differs from the sector before. -/
theorem captureColumn_getElem? {x : List Color} {i : Nat} {c : Color} (hc : x[i]? = some c) :
    (captureColumn x)[i]? = some (if i = 0 ∨ c ≠ (x[i - 1]?).getD 0 then some c else none) := by
  cases x with
  | nil => cases hc
  | cons d x =>
    cases i with
    | zero =>
      obtain rfl : d = c := by simpa using hc
      rfl
    | succ i =>
      have h := captureFrom_getElem? (prev := d) (i := i) hc
      simpa [captureColumn] using h

/-! ### The cells of columns -/

theorem mem_columnCells_iff {α : Type} {cols : List (List α)} {k : Nat} {v : α} :
    (k, v) ∈ columnCells cols ↔ ∃ l sec, ∃ hl : l < cols.length, ∃ hs : sec < cols[l].length,
      k = gridCell sec l ∧ v = cols[l][sec] := by
  constructor
  · intro h
    obtain ⟨⟨col, l⟩, hcol, hv⟩ := List.mem_flatMap.1 h
    obtain ⟨⟨w, sec⟩, hw, he⟩ := List.mem_map.1 hv
    obtain ⟨hl, rfl⟩ := List.getElem?_eq_some_iff.1 (List.mk_mem_zipIdx_iff_getElem?.1 hcol)
    obtain ⟨hs, rfl⟩ := List.getElem?_eq_some_iff.1 (List.mk_mem_zipIdx_iff_getElem?.1 hw)
    cases he
    exact ⟨l, sec, hl, hs, rfl, rfl⟩
  · rintro ⟨l, sec, hl, hs, rfl, rfl⟩
    exact mem_columnCells hl hs

theorem gridCell_inj {sec l sec' l' : Nat} (hl : l < 256) (hl' : l' < 256) (h : gridCell sec l = gridCell sec' l') :
    sec = sec' ∧ l = l' := by
  unfold gridCell at h
  omega

section
variable {α : Type} (f : BitVec 128 → α) (m : Memory α) (b : BitVec 128) {cols : List (List α)} {sec l : Nat}

/-- At most 256 columns have cells of their own, so each cell reads as its column's entry. -/
theorem cellOr_writeAll_columnCells (hcols : cols.length ≤ 256) (hl : l < cols.length) (hs : sec < cols[l].length) :
    cellOr f (Memory.writeAll m (columnCells cols)) b (gridCell sec l) = cols[l][sec] := by
  refine cellOr_writeAll_of_mem f m b (mem_columnCells hl hs) fun w hw => ?_
  obtain ⟨l', sec', hl', hs', hk, rfl⟩ := mem_columnCells_iff.1 hw
  obtain ⟨rfl, rfl⟩ := gridCell_inj (hl.trans_le hcols) (hl'.trans_le hcols) hk
  rfl

theorem cellOr_writeAll_columnCells_of_outside (hcols : cols.length ≤ 256) (hl : l < 256)
    (hout : ∀ h : l < cols.length, cols[l].length ≤ sec) :
    cellOr f (Memory.writeAll m (columnCells cols)) b (gridCell sec l) = cellOr f m b (gridCell sec l) := by
  refine cellOr_writeAll_of_notMem f m b ?_
  rintro ⟨k, v⟩ hc rfl
  obtain ⟨l', sec', hl', hs', hk, -⟩ := mem_columnCells_iff.1 hc
  obtain ⟨rfl, rfl⟩ := gridCell_inj hl (hl'.trans_le hcols) hk
  exact Nat.not_le.2 hs' (hout hl')

/-! ### One cell for each sector -/

theorem cellOr_writeAll_sectors {n : Nat} (val : Nat → α) (hs : sec < n) :
    cellOr f (Memory.writeAll m ((List.range n).map fun i => (i, val i))) b sec = val sec := by
  refine cellOr_writeAll_of_mem f m b (List.mem_map.2 ⟨sec, List.mem_range.2 hs, rfl⟩) fun w hw => ?_
  obtain ⟨i, -, he⟩ := List.mem_map.1 hw
  cases he
  rfl

theorem cellOr_writeAll_sectors_of_le {n : Nat} (val : Nat → α) (hs : n ≤ sec) :
    cellOr f (Memory.writeAll m ((List.range n).map fun i => (i, val i))) b sec = cellOr f m b sec := by
  refine cellOr_writeAll_of_notMem f m b ?_
  rintro c hc rfl
  obtain ⟨i, hi, rfl⟩ := List.mem_map.1 hc
  exact Nat.not_le.2 (List.mem_range.1 hi) hs

end

/-! ### The columns of a pass -/

/-- What SAMPLE records at (s, l) (R162). -/
def capturedColor (s : State) (sec l : Nat) : Option Color :=
  if sec = 0 ∨ sampleColor s sec l ≠ sampleColor s (sec - 1) l then some (sampleColor s sec l) else none

theorem newColumns_getElem {s : State} {l sec : Nat} (hl : l < (newColumns s).length)
    (hs : sec < (newColumns s)[l].length) : (newColumns s)[l][sec] = capturedColor s sec l := by
  have hsec : sec < s.regs.cfgS.toNat := by rwa [length_of_mem_newColumns (List.getElem_mem hl)] at hs
  have hcol : (newColumns s)[l] = captureColumn (sampleColumn s l) := by simp [newColumns]
  have hsample (i : Nat) (hi : i < s.regs.cfgS.toNat) : (sampleColumn s l)[i]? = some (sampleColor s i l) := by
    simp [sampleColumn, hi]
  have h := captureColumn_getElem? (hsample sec hsec)
  rw [hsample (sec - 1) (by omega), Option.getD_some] at h
  simp only [hcol]
  exact (List.getElem_eq_iff _).2 h

theorem expandedColumns_getElem {s : State} {l sec : Nat} (hl : l < ((newColumns s).map expandColumn).length)
    (hs : sec < ((newColumns s).map expandColumn)[l].length) :
    ((newColumns s).map expandColumn)[l][sec] = sampleColor s sec l := by
  have hcol : ((newColumns s).map expandColumn)[l] = sampleColumn s l := by
    simp [newColumns, expandColumn_captureColumn]
  simp [hcol, sampleColumn]

theorem convertedAt_newColumns_iff {s : State} {sec : Nat} (hs : sec < s.regs.cfgS.toNat) :
    convertedAt (newColumns s) sec = true ↔ ∃ l, l < s.regs.cfgL.toNat ∧ capturedColor s sec l ≠ none := by
  rw [convertedAt, List.any_eq_true]
  constructor
  · rintro ⟨col, hcol, hsome⟩
    obtain ⟨l, hl, rfl⟩ := List.getElem_of_mem hcol
    have hlen : sec < (newColumns s)[l].length := by rwa [length_of_mem_newColumns hcol]
    refine ⟨l, by simpa using hl, ?_⟩
    rw [← newColumns_getElem hl hlen]
    rwa [List.getD_eq_getElem _ _ hlen, Option.isSome_iff_ne_none] at hsome
  · rintro ⟨l, hl, hne⟩
    have hl' : l < (newColumns s).length := by simpa using hl
    have hlen : sec < (newColumns s)[l].length := by rwa [length_of_mem_newColumns (List.getElem_mem hl')]
    refine ⟨_, List.getElem_mem hl', ?_⟩
    rwa [List.getD_eq_getElem _ _ hlen, newColumns_getElem hl' hlen, Option.isSome_iff_ne_none]

end Sys2Proof.Machine
end

section
/-! SUPPORT. What a SAMPLE pass and a GRID_LOAD pass leave in FULL, NEW and CONV (40_sampler.md R165, R167, R170). -/

namespace Sys2Proof.Machine

section
variable {s : State} {sec l : Nat}

theorem readNew_samplePass (hL : s.regs.cfgL.toNat ≤ 256) (hs : sec < s.regs.cfgS.toNat) (hl : l < s.regs.cfgL.toNat) :
    readNew (samplePass s) sec l = capturedColor s sec l := by
  have hl' : l < (newColumns s).length := by simpa using hl
  have hlen : sec < (newColumns s)[l].length := by rwa [length_of_mem_newColumns (List.getElem_mem hl')]
  exact (cellOr_writeAll_columnCells _ _ _ (by simpa using hL) hl' hlen).trans (newColumns_getElem hl' hlen)

theorem readFull_samplePass (hL : s.regs.cfgL.toNat ≤ 256) (hs : sec < s.regs.cfgS.toNat) (hl : l < s.regs.cfgL.toNat) :
    readFull (samplePass s) sec l = sampleColor s sec l := by
  have hl' : l < ((newColumns s).map expandColumn).length := by simpa using hl
  have hlen : sec < ((newColumns s).map expandColumn)[l].length := by
    rwa [List.getElem_map, expandColumn_length, length_of_mem_newColumns (List.getElem_mem _)]
  exact (cellOr_writeAll_columnCells _ _ _ (by simpa using hL) hl' hlen).trans (expandedColumns_getElem hl' hlen)

theorem readNew_samplePass_of_outside (hL : s.regs.cfgL.toNat ≤ 256) (hl : l < 256)
    (hout : s.regs.cfgS.toNat ≤ sec ∨ s.regs.cfgL.toNat ≤ l) : readNew (samplePass s) sec l = readNew s sec l := by
  refine cellOr_writeAll_columnCells_of_outside _ _ _ (by simpa using hL) hl fun h => ?_
  rw [length_of_mem_newColumns (List.getElem_mem h)]
  exact hout.resolve_right (Nat.not_le.2 (by simpa using h))

theorem readFull_samplePass_of_outside (hL : s.regs.cfgL.toNat ≤ 256) (hl : l < 256)
    (hout : s.regs.cfgS.toNat ≤ sec ∨ s.regs.cfgL.toNat ≤ l) : readFull (samplePass s) sec l = readFull s sec l := by
  refine cellOr_writeAll_columnCells_of_outside _ _ _ (by simpa using hL) hl fun h => ?_
  rw [List.getElem_map, expandColumn_length, length_of_mem_newColumns (List.getElem_mem _)]
  exact hout.resolve_right (Nat.not_le.2 (by simpa using h))

theorem readConv_samplePass (hs : sec < s.regs.cfgS.toNat) :
    readConv (samplePass s) sec = convertedAt (newColumns s) sec :=
  cellOr_writeAll_sectors _ _ _ _ hs

theorem readConv_samplePass_of_le (hs : s.regs.cfgS.toNat ≤ sec) : readConv (samplePass s) sec = readConv s sec :=
  cellOr_writeAll_sectors_of_le _ _ _ _ hs

theorem mem_shapeCells_iff : (sec, l) ∈ shapeCells s ↔ sec < s.regs.cfgS.toNat ∧ l < s.regs.cfgL.toNat := by
  simp [shapeCells]

theorem readNew_gridLoadPass (hs : sec < s.regs.cfgS.toNat) (hl : l < s.regs.cfgL.toNat) :
    readNew (gridLoadPass s) sec l = none := by
  refine cellOr_writeAll_of_mem _ _ _ (List.mem_map.2 ⟨(sec, l), mem_shapeCells_iff.2 ⟨hs, hl⟩, rfl⟩) fun w hw => ?_
  obtain ⟨c, -, he⟩ := List.mem_map.1 hw
  exact (congrArg Prod.snd he).symm

theorem readNew_gridLoadPass_of_outside (hL : s.regs.cfgL.toNat ≤ 256) (hl : l < 256)
    (hout : s.regs.cfgS.toNat ≤ sec ∨ s.regs.cfgL.toNat ≤ l) : readNew (gridLoadPass s) sec l = readNew s sec l := by
  refine cellOr_writeAll_of_notMem _ _ _ ?_
  rintro c hc he
  obtain ⟨⟨sec', l'⟩, hin, rfl⟩ := List.mem_map.1 hc
  obtain ⟨hs', hl'⟩ := mem_shapeCells_iff.1 hin
  obtain ⟨rfl, rfl⟩ := gridCell_inj (hl'.trans_le hL) hl he
  omega

theorem readConv_gridLoadPass (hs : sec < s.regs.cfgS.toNat) : readConv (gridLoadPass s) sec = false :=
  cellOr_writeAll_sectors _ _ _ (fun _ => false) hs

theorem readConv_gridLoadPass_of_le (hs : s.regs.cfgS.toNat ≤ sec) : readConv (gridLoadPass s) sec = readConv s sec :=
  cellOr_writeAll_sectors_of_le _ _ _ (fun _ => false) hs

end

theorem exec_gridLoad_of_ready {s : State} (h : ShapeReady s) : exec .gridLoad s = .next (gridLoadPass s) := by
  rcases execGridLoad_cases s with ⟨-, hexec⟩ | ⟨hnot, -⟩
  · exact hexec
  · exact absurd h hnot

/-- CONV_COUNT counts the sectors whose CONV bit the pass sets (R165). -/
theorem convertedCount_eq (s : State) :
    convertedCount (newColumns s) s.regs.cfgS.toNat =
      ((List.range s.regs.cfgS.toNat).filter fun sec => readConv (samplePass s) sec).length := by
  rw [convertedCount]
  congr 1
  exact List.filter_congr fun sec hsec => (readConv_samplePass (List.mem_range.1 hsec)).symm

end Sys2Proof.Machine
end

section
/-! PROOFS. The statements about completed SAMPLE and GRID_LOAD commands (40_sampler.md R150, R165, R170). -/

namespace Sys2Proof.Machine

/-- Settles O27: the columns cover the shape cell by cell, and expansion gives the sampled colors back. -/
theorem sampleCompletes : Obligations.SampleCompletes := by
  unfold Obligations.SampleCompletes
  intro s hready
  have ⟨_, _, ⟨hS, _, hL, hLmax⟩, _⟩ := hready
  have hL' : s.regs.cfgL.toNat ≤ 256 := hLmax.trans Config.lMax_bounds.2
  have hconv {sec : Nat} (hs : sec < s.regs.cfgS.toNat) : readConv (samplePass s) sec = true ↔
      ∃ l, l < s.regs.cfgL.toNat ∧ readNew (samplePass s) sec l ≠ none := by
    rw [readConv_samplePass hs, convertedAt_newColumns_iff hs]
    exact exists_congr fun l => and_congr_right fun hl => by rw [readNew_samplePass hL' hs hl]
  refine ⟨samplePass s, exec_sample_of_ready hready, ?regs, fun sec l hs hl => ⟨readFull_samplePass hL' hs hl,
    readNew_samplePass hL' hs hl⟩, fun sec hs => hconv hs, ?first, fun sec l hl hout =>
    ⟨readFull_samplePass_of_outside hL' hl hout, readNew_samplePass_of_outside hL' hl hout⟩,
    fun sec hs => readConv_samplePass_of_le hs, (keepsAllBut_samplePass s).keepsMems (by decide), rfl, rfl, rfl⟩
  case regs =>
    rw [← convertedCount_eq]
    rfl
  case first =>
    refine (hconv hS).2 ⟨0, hL, ?_⟩
    rw [readNew_samplePass hL' hS hL, capturedColor, if_pos (.inl rfl)]
    exact Option.some_ne_none _

/-- Settles O32: every cell of the shape is written with nothing captured, and FULL is not written. -/
theorem gridLoadCompletes : Obligations.GridLoadCompletes := by
  unfold Obligations.GridLoadCompletes
  intro s hready
  have hL' : s.regs.cfgL.toNat ≤ 256 := hready.2.2.2.trans Config.lMax_bounds.2
  exact ⟨gridLoadPass s, exec_gridLoad_of_ready hready, rfl, fun sec l hs hl => readNew_gridLoadPass hs hl,
    fun sec hs => readConv_gridLoadPass hs, fun sec l hl hout => readNew_gridLoadPass_of_outside hL' hl hout,
    fun sec hs => readConv_gridLoadPass_of_le hs, (keepsAllBut_gridLoadPass s).keepsMems (by decide), rfl, rfl, rfl⟩

end Sys2Proof.Machine
end

section
/-! SUPPORT. `round` gives the F64 nearest to the exact value, the even one of two equally near (00_scope.md R17): first
the significand kept is the integer nearest to the value in units of the last place, then no finite number is nearer. -/

namespace Sys2Proof

/-! ### The nearest integer -/

/-- q is the integer nearest to x, the even one of two equally near. -/
def NearestEvenInt (x : ℚ) (q : Nat) : Prop := |(q : ℚ) - x| ≤ 1 / 2 ∧ (|(q : ℚ) - x| = 1 / 2 → q % 2 = 0)

theorem nearestEvenInt_self (q : Nat) : NearestEvenInt q q := by
  constructor <;> norm_num

/-- Any other integer is further away, or as far when q is even. -/
theorem NearestEvenInt.closest {x : ℚ} {q : Nat} (h : NearestEvenInt x q) (j : ℤ) :
    |(q : ℚ) - x| < |(j : ℚ) - x| ∨ (|(q : ℚ) - x| = |(j : ℚ) - x| ∧ (j = q ∨ q % 2 = 0)) := by
  obtain ⟨hhalf, htie⟩ := h
  rcases eq_or_ne j q with rfl | hj
  · exact .inr ⟨by simp, .inl rfl⟩
  · have hgap : (1 : ℚ) ≤ |(j : ℚ) - q| := by
      exact_mod_cast Int.one_le_abs (sub_ne_zero.2 hj)
    have htriangle : |(j : ℚ) - q| ≤ |(j : ℚ) - x| + |(q : ℚ) - x| := by
      rw [abs_sub_comm (q : ℚ) x]
      exact abs_sub_le _ _ _
    rcases lt_or_eq_of_le (by linarith : |(q : ℚ) - x| ≤ |(j : ℚ) - x|) with hlt | heq
    · exact .inl hlt
    · exact .inr ⟨heq, .inr (htie (by linarith))⟩

/-- `roundShift` rounds m + d to a multiple of 2^sh, where 0 ≤ d < 1 and `sticky` says whether d is above 0. -/
theorem F64.roundShift_nearest {m sh : Nat} {sticky : Bool} {d : ℚ} (hsh : 0 < sh) (hd : 0 ≤ d) (hd' : d < 1)
    (hsticky : sticky = true ↔ 0 < d) : NearestEvenInt ((m + d) / 2 ^ sh) (F64.roundShift m sh sticky) := by
  obtain ⟨k, rfl⟩ := Nat.exists_eq_add_of_le' hsh
  have hdiv : 2 ^ (k + 1) * (m / 2 ^ (k + 1)) + m % 2 ^ (k + 1) = m := Nat.div_add_mod _ _
  have hmod : m % 2 ^ (k + 1) < 2 ^ (k + 1) := Nat.mod_lt _ (by positivity)
  simp only [F64.roundShift, Nat.succ_ne_zero, if_false, Nat.shiftRight_eq_div_pow, Nat.one_shiftLeft,
    Nat.add_sub_cancel]
  generalize m / 2 ^ (k + 1) = q at *
  generalize m % 2 ^ (k + 1) = r at *
  have hpow : (2 : ℚ) ^ (k + 1) = 2 * 2 ^ k := by rw [pow_succ, mul_comm]
  have hpos : (0 : ℚ) < 2 ^ k := by positivity
  have hm : (m : ℚ) = 2 * 2 ^ k * q + r := by rw [← hdiv]; push_cast; rw [hpow]
  have hr : (r : ℚ) + 1 ≤ 2 * 2 ^ k := by rw [← hpow]; exact_mod_cast hmod
  -- the distance from an integer, in units of half a step
  have hdist (p : Nat) : |(p : ℚ) - (m + d) / 2 ^ (k + 1)| = |(p - q) * (2 * 2 ^ k) - (r + d)| / (2 * 2 ^ k) := by
    have hpos : (0 : ℚ) < 2 * 2 ^ k := by positivity
    rw [hm, hpow, ← abs_of_pos hpos, ← abs_div, abs_of_pos hpos]
    congr 1
    field_simp
    ring
  have hup : ((q + 1 : Nat) - q : ℚ) * (2 * 2 ^ k) - (r + d) = 2 * 2 ^ k - (r + d) := by push_cast; ring
  have hdown : (q - q : ℚ) * (2 * 2 ^ k) - (r + d) = -(r + d) := by ring
  split
  case isTrue hcase =>
    have hhalf : (2 : ℚ) ^ k ≤ r := by
      rcases hcase with hgt | ⟨heq, -⟩
      · exact_mod_cast hgt.le
      · exact_mod_cast heq.ge
    rw [NearestEvenInt, hdist, hup, abs_of_nonneg (by linarith), div_le_iff₀ (by positivity), div_eq_iff (by positivity)]
    refine ⟨by linarith, fun htie => ?_⟩
    have hd0 : d = 0 := by linarith
    have hr0 : (r : ℚ) = 2 ^ k := by linarith
    rcases hcase with hgt | ⟨heq, hst | hodd⟩
    · have : (2 : ℚ) ^ k < r := by exact_mod_cast hgt
      linarith
    · exact absurd (hsticky.1 hst) (by rw [hd0]; exact lt_irrefl 0)
    · omega
  case isFalse hcase =>
    have hhalf : (r : ℚ) + d ≤ 2 ^ k ∧ ((r : ℚ) + d = 2 ^ k → q % 2 = 0) := by
      rcases lt_trichotomy r (2 ^ k) with hlt | heq | hgt
      · have : (r : ℚ) + 1 ≤ 2 ^ k := by exact_mod_cast hlt
        exact ⟨by linarith, fun h => by linarith⟩
      · have hnot : ¬ (sticky = true ∨ q % 2 = 1) := fun h => hcase (.inr ⟨heq, h⟩)
        have hd0 : d = 0 := le_antisymm (not_lt.1 fun h => hnot (.inl (hsticky.2 h))) hd
        have hr0 : (r : ℚ) = 2 ^ k := by exact_mod_cast heq
        exact ⟨by linarith, fun _ => by omega⟩
      · exact absurd (.inl hgt) hcase
    rw [NearestEvenInt, hdist, hdown, abs_neg, abs_of_nonneg (by positivity), div_le_iff₀ (by positivity),
      div_eq_iff (by positivity)]
    exact ⟨by linarith, fun htie => hhalf.2 (by linarith)⟩

/-- The significand kept is the nearest integer to the value in units of the last place kept. A sticky value needs a
place below the last one kept, which 54 digits give. -/
theorem F64.keptSignificand_nearest {m : Nat} {e : ℤ} {sticky : Bool} {d : ℚ} (hd : 0 ≤ d) (hd' : d < 1)
    (hsticky : sticky = true ↔ 0 < d) (hbits : sticky = true → 2 ^ 53 ≤ m) :
    NearestEvenInt ((m + d) * (2 : ℚ) ^ e / (2 : ℚ) ^ F64.ulpExp m e) (F64.keptSignificand m e sticky) := by
  unfold F64.keptSignificand
  split
  case isTrue hte =>
    have hd0 : d = 0 := by
      refine le_antisymm (not_lt.1 fun hpos => ?_) hd
      have hlog : 53 ≤ Nat.log2 m := (Nat.le_log2 (by have := hbits (hsticky.2 hpos); omega)).2 (hbits (hsticky.2 hpos))
      unfold F64.ulpExp at hte
      omega
    have hexact : (m + d) * (2 : ℚ) ^ e / (2 : ℚ) ^ F64.ulpExp m e = (m <<< (e - F64.ulpExp m e).toNat : Nat) := by
      rw [hd0, add_zero, two_zpow_eq_mul_pow hte, Nat.shiftLeft_eq]
      push_cast
      field_simp
    rw [hexact]
    exact nearestEvenInt_self _
  case isFalse hte =>
    have hshift : (m + d) * (2 : ℚ) ^ e / (2 : ℚ) ^ F64.ulpExp m e = (m + d) / 2 ^ (F64.ulpExp m e - e).toNat := by
      rw [two_zpow_eq_mul_pow (le_of_not_ge hte)]
      field_simp
    rw [hshift]
    exact F64.roundShift_nearest (by omega) hd hd' hsticky

/-! ### The number a rounding gives -/

/-- Where the encoded magnitude stays below infinity, it stands for the significand kept at its exponent. -/
theorem F64.toRat_round {m : Nat} (hm : m ≠ 0) (neg : Bool) (e : ℤ) (sticky : Bool)
    (hfin : (F64.ulpExp m e + 1074).toNat * 2 ^ 52 + F64.keptSignificand m e sticky < 2047 * 2 ^ 52) :
    F64.isFinite (F64.round neg m e sticky) = true ∧
    F64.toRat (F64.round neg m e sticky) =
      F64.signFactor neg * (F64.keptSignificand m e sticky * (2 : ℚ) ^ F64.ulpExp m e) ∧
    F64.fracField (F64.round neg m e sticky) % 2 = F64.keptSignificand m e sticky % 2 := by
  have hulp : -1074 ≤ F64.ulpExp m e := le_max_right _ _
  have hle := F64.keptSignificand_le m e sticky
  have hge := fun ht => F64.le_keptSignificand (e := e) hm ht sticky
  rw [F64.round_eq hm, min_eq_left hfin.le]
  generalize F64.keptSignificand m e sticky = q at *
  generalize F64.ulpExp m e = t at *
  have hE : (t + 1074).toNat = 0 ∨ 2 ^ 52 ≤ q := by
    rcases eq_or_lt_of_le hulp with h | h
    · left; omega
    · exact .inr (hge h)
  have hexp : ((t + 1074).toNat : ℤ) - 1074 = t := by omega
  refine ⟨F64.isFinite_withSign hfin, ?_, ?_⟩
  · rw [F64.toRat_withSign hle hE hfin, hexp]
  · rw [F64.fracField_withSign (by omega)]
    omega

/-- m * 2^e with at most 53 binary digits and no digit below 2^-1074 is exactly an F64. -/
theorem F64.toRat_round_exact {m : Nat} {e : ℤ} (neg sticky : Bool) (hm : m < 2 ^ 53) (he : -1074 ≤ e)
    (hmax : m * (2 : ℚ) ^ e < (2 : ℚ) ^ (1024 : ℤ)) :
    F64.isFinite (F64.round neg m e sticky) = true ∧
    F64.toRat (F64.round neg m e sticky) = F64.signFactor neg * (m * (2 : ℚ) ^ e) := by
  rcases Nat.eq_zero_or_pos m with rfl | hpos
  · rw [F64.round_zero]
    exact ⟨F64.isFinite_withSign (by norm_num), by simp⟩
  have hm0 : m ≠ 0 := Nat.ne_of_gt hpos
  have hlog : Nat.log2 m < 53 := (Nat.log2_lt hm0).2 hm
  have hulp : F64.ulpExp m e ≤ e := by unfold F64.ulpExp; omega
  have hvalue : (F64.keptSignificand m e sticky : ℚ) * (2 : ℚ) ^ F64.ulpExp m e = m * (2 : ℚ) ^ e := by
    rw [F64.keptSignificand, if_pos hulp, Nat.shiftLeft_eq, two_zpow_eq_mul_pow hulp]
    push_cast
    ring
  have hexp : e + (Nat.log2 m : ℤ) < 1024 :=
    (zpow_lt_zpow_iff_right₀ (by norm_num)).1 ((two_zpow_log2_le hm0 e).trans_lt hmax)
  have hkept : F64.keptSignificand m e sticky < 2 ^ 53 := by
    rw [← Nat.cast_lt (α := ℚ)]
    refine lt_of_mul_lt_mul_right (a := (2 : ℚ) ^ F64.ulpExp m e) ?_ (by positivity)
    rw [hvalue]
    refine (lt_two_zpow_log2 m e).trans_le ?_
    rw [Nat.cast_pow, Nat.cast_ofNat, ← zpow_natCast, ← zpow_add₀ (by norm_num)]
    exact zpow_le_zpow_right₀ (by norm_num) (by unfold F64.ulpExp; push_cast; omega)
  have hE : (F64.ulpExp m e + 1074).toNat ≤ 2045 := by unfold F64.ulpExp; omega
  obtain ⟨hfin, hrat, -⟩ := F64.toRat_round hm0 neg e sticky (by omega)
  exact ⟨hfin, by rw [hrat, hvalue]⟩

/-! ### No finite number is nearer -/

/-- A finite number is a multiple of 2^t, or smaller in magnitude than every normal number whose last place is 2^t. -/
theorem F64.toRat_eq_mul_or_lt {y : F64} {t : ℤ} (ht : -1074 ≤ t) :
    (∃ j : ℤ, F64.toRat y = j * (2 : ℚ) ^ t) ∨ (-1074 < t ∧ |F64.toRat y| < (2 : ℚ) ^ (t + 52)) := by
  rcases le_or_gt t (F64.expo y) with h | h
  · refine .inl ⟨F64.smant y * 2 ^ (F64.expo y - t).toNat, ?_⟩
    rw [F64.toRat, two_zpow_eq_mul_pow h]
    push_cast
    ring
  · have hexpo : -1074 ≤ F64.expo y := by unfold F64.expo; omega
    refine .inr ⟨by omega, ?_⟩
    have hmant : (F64.mant y : ℚ) < 2 ^ (53 : ℤ) := by exact_mod_cast F64.mant_lt y
    rw [F64.abs_toRat]
    calc (F64.mant y : ℚ) * (2 : ℚ) ^ F64.expo y < 2 ^ (53 : ℤ) * (2 : ℚ) ^ F64.expo y := by gcongr
      _ = (2 : ℚ) ^ (53 + F64.expo y) := by rw [zpow_add₀ (by norm_num)]
      _ ≤ (2 : ℚ) ^ (t + 52) := zpow_le_zpow_right₀ (by norm_num) (by omega)

/-- A significand q at the last place t of the magnitude v: the nearest integer to v / 2^t, where v is normal for t or t
is the subnormals' place. -/
structure F64.Kept (v : ℚ) (t : ℤ) (q : Nat) : Prop where
  place : -1074 ≤ t
  nearest : NearestEvenInt (v / (2 : ℚ) ^ t) q
  normal : -1074 < t → (2 : ℚ) ^ (t + 52) ≤ v

/-- No finite number is nearer to v than the significand kept, and one as near leaves the even significand. -/
theorem F64.Kept.closest {v : ℚ} {t : ℤ} {q : Nat} (h : F64.Kept v t q) (y : F64) :
    |q * (2 : ℚ) ^ t - v| < |F64.toRat y - v| ∨
    (|q * (2 : ℚ) ^ t - v| = |F64.toRat y - v| ∧ (F64.toRat y = q * (2 : ℚ) ^ t ∨ q % 2 = 0)) := by
  have hpos : (0 : ℚ) < (2 : ℚ) ^ t := by positivity
  have hscale (x : ℚ) : |x * (2 : ℚ) ^ t - v| = |x - v / (2 : ℚ) ^ t| * (2 : ℚ) ^ t := by
    rw [← abs_of_pos hpos, ← abs_mul, abs_of_pos hpos, sub_mul, div_mul_cancel₀ _ hpos.ne']
  have multiple (j : ℤ) : |q * (2 : ℚ) ^ t - v| < |j * (2 : ℚ) ^ t - v| ∨
      (|q * (2 : ℚ) ^ t - v| = |j * (2 : ℚ) ^ t - v| ∧ (j = q ∨ q % 2 = 0)) := by
    rw [hscale, hscale, mul_lt_mul_iff_left₀ hpos, mul_left_inj' hpos.ne']
    exact h.nearest.closest j
  rcases F64.toRat_eq_mul_or_lt (y := y) h.place with ⟨j, hj⟩ | ⟨ht, hsmall⟩
  · rw [hj]
    refine (multiple j).imp_right (And.imp_right (Or.imp_left fun hjq => ?_))
    rw [hjq, Int.cast_natCast]
  · have hnormal := h.normal ht
    have hsmall' := (abs_lt.1 hsmall).2
    have hfloor : |q * (2 : ℚ) ^ t - v| ≤ v - (2 : ℚ) ^ (t + 52) := by
      have hbound : |((2 ^ 52 : ℤ) : ℚ) * (2 : ℚ) ^ t - v| = v - (2 : ℚ) ^ (t + 52) := by
        have hpow : ((2 ^ 52 : ℤ) : ℚ) * (2 : ℚ) ^ t = (2 : ℚ) ^ (t + 52) := by
          rw [add_comm, zpow_add₀ (by norm_num)]
          norm_num
        rw [hpow, abs_sub_comm, abs_of_nonneg (by linarith)]
      rw [← hbound]
      exact (multiple (2 ^ 52)).elim le_of_lt fun h => h.1.le
    refine .inl ?_
    calc |q * (2 : ℚ) ^ t - v| ≤ v - (2 : ℚ) ^ (t + 52) := hfloor
      _ < v - F64.toRat y := by linarith
      _ ≤ |F64.toRat y - v| := by rw [abs_sub_comm]; exact le_abs_self _

/-! ### The other sign -/

theorem F64.toNat_flip_mod (x : F64) : (F64.flip x).toNat % 2 ^ 63 = x.toNat % 2 ^ 63 := by
  have hbit : (0x8000000000000000 : F64).toNat % 2 ^ 63 = 0 := rfl
  rw [F64.flip, BitVec.toNat_xor, Nat.xor_mod_two_pow, hbit, Nat.xor_zero]

theorem F64.expField_flip (x : F64) : F64.expField (F64.flip x) = F64.expField x := by
  have h := F64.toNat_flip_mod x
  unfold F64.expField
  omega

theorem F64.fracField_flip (x : F64) : F64.fracField (F64.flip x) = F64.fracField x := by
  have h := F64.toNat_flip_mod x
  unfold F64.fracField
  omega

theorem F64.neg_flip (x : F64) : F64.neg (F64.flip x) = !F64.neg x := by
  simp [F64.neg, F64.flip]

theorem F64.isFinite_flip (x : F64) : F64.isFinite (F64.flip x) = F64.isFinite x := by
  rw [F64.isFinite, F64.isFinite, F64.expField_flip]

theorem F64.signFactor_not (neg : Bool) : F64.signFactor (!neg) = -F64.signFactor neg := by
  cases neg <;> simp [F64.signFactor]

theorem F64.toRat_flip (x : F64) : F64.toRat (F64.flip x) = -F64.toRat x := by
  rw [F64.toRat_eq, F64.toRat_eq, F64.neg_flip, F64.mant, F64.mant, F64.expo, F64.expo, F64.expField_flip,
    F64.fracField_flip, F64.signFactor_not, neg_mul]

/-! ### Rounding to nearest -/

section
variable {neg sticky : Bool} {m : Nat} {e : ℤ} {d : ℚ}

theorem F64.kept_keptSignificand (hm : m ≠ 0) (hd : 0 ≤ d) (hd' : d < 1) (hsticky : sticky = true ↔ 0 < d)
    (hbits : sticky = true → 2 ^ 53 ≤ m) :
    F64.Kept ((m + d) * (2 : ℚ) ^ e) (F64.ulpExp m e) (F64.keptSignificand m e sticky) where
  place := le_max_right _ _
  nearest := F64.keptSignificand_nearest hd hd' hsticky hbits
  normal := by
    intro ht
    have hexp : F64.ulpExp m e + 52 = e + (Nat.log2 m : ℤ) := by unfold F64.ulpExp at *; omega
    rw [hexp]
    refine (two_zpow_log2_le hm e).trans ?_
    gcongr
    linarith

/-- The value is below the next power of two above its leading digit. -/
theorem F64.value_lt_two_zpow (hd' : d < 1) : (m + d) * (2 : ℚ) ^ e < (2 : ℚ) ^ (F64.ulpExp m e + 53) := by
  have hm : (m : ℚ) + 1 ≤ 2 ^ (Nat.log2 m + 1) := by exact_mod_cast (Nat.lt_log2_self : m < 2 ^ (Nat.log2 m + 1))
  calc (m + d) * (2 : ℚ) ^ e < 2 ^ (Nat.log2 m + 1) * (2 : ℚ) ^ e := by gcongr; linarith
    _ = (2 : ℚ) ^ ((Nat.log2 m + 1 : Nat) + e : ℤ) := by rw [zpow_add₀ (by norm_num), zpow_natCast]
    _ ≤ (2 : ℚ) ^ (F64.ulpExp m e + 53) :=
      zpow_le_zpow_right₀ (by norm_num) (by unfold F64.ulpExp; push_cast; omega)

/-- The least value that rounds to infinity, in units of the largest finite numbers' last place. -/
theorem overflow_threshold :
    (2 : ℚ) ^ (1024 : ℕ) - (2 : ℚ) ^ (970 : ℕ) = (2 ^ 53 - 1 / 2) * (2 : ℚ) ^ (971 : ℤ) := by
  have htop : (2 : ℚ) ^ (1024 : ℕ) = 2 ^ 53 * (2 : ℚ) ^ (971 : ℤ) := by
    rw [← zpow_natCast, ← zpow_natCast, ← zpow_add₀ (by norm_num)]
    norm_num
  have hhalf : (2 : ℚ) ^ (970 : ℕ) = 1 / 2 * (2 : ℚ) ^ (971 : ℤ) := by
    rw [← zpow_natCast, show ((970 : ℕ) : ℤ) = 971 - 1 by norm_num, zpow_sub_one₀ (by norm_num), mul_comm, one_div]
  rw [htop, hhalf, sub_mul]

/-- The encoded magnitude reaches infinity exactly where the value reaches 2^1024 - 2^970, half a place below 2^1024. -/
theorem F64.overflow_iff (hm : m ≠ 0) (hd : 0 ≤ d) (hd' : d < 1) (hsticky : sticky = true ↔ 0 < d)
    (hbits : sticky = true → 2 ^ 53 ≤ m) :
    2047 * 2 ^ 52 ≤ (F64.ulpExp m e + 1074).toNat * 2 ^ 52 + F64.keptSignificand m e sticky ↔
      (2 : ℚ) ^ (1024 : ℕ) - (2 : ℚ) ^ (970 : ℕ) ≤ (m + d) * (2 : ℚ) ^ e := by
  have hkept := F64.kept_keptSignificand hm hd hd' hsticky hbits (e := e)
  have hlt : (m + d) * (2 : ℚ) ^ e < (2 : ℚ) ^ (F64.ulpExp m e + 53) := F64.value_lt_two_zpow hd'
  have hle := F64.keptSignificand_le m e sticky
  have hge := fun ht => F64.le_keptSignificand (e := e) hm ht sticky
  generalize F64.ulpExp m e = t at *
  generalize F64.keptSignificand m e sticky = q at *
  generalize (m + d) * (2 : ℚ) ^ e = v at *
  obtain ⟨hplace, ⟨hhalf, htie⟩, hnormal⟩ := hkept
  have hunit : (0 : ℚ) < (2 : ℚ) ^ (971 : ℤ) := by positivity
  rw [overflow_threshold]
  rcases lt_trichotomy t 971 with hsmall | rfl | hlarge
  · have hv : v < 2 ^ 52 * (2 : ℚ) ^ (971 : ℤ) := by
      refine hlt.trans_le ?_
      rw [← zpow_natCast, ← zpow_add₀ (by norm_num)]
      exact zpow_le_zpow_right₀ (by norm_num) (by push_cast; omega)
    generalize (2 : ℚ) ^ (971 : ℤ) = u at *
    exact iff_of_false (by omega) (not_le.2 (by linarith))
  · have hcode : 2047 * 2 ^ 52 ≤ (971 + 1074 : ℤ).toNat * 2 ^ 52 + q ↔ 2 ^ 53 ≤ q := by omega
    rw [hcode, ← le_div_iff₀ hunit]
    generalize v / (2 : ℚ) ^ (971 : ℤ) = x at *
    obtain ⟨hlow, hhigh⟩ := abs_le.1 hhalf
    constructor
    · intro hq
      have hq' : (2 ^ 53 : ℚ) ≤ q := by exact_mod_cast hq
      linarith
    · intro hx
      by_contra hq
      have hq' : (q : ℚ) ≤ 2 ^ 53 - 1 := by
        have : q + 1 ≤ 2 ^ 53 := by omega
        have : (q : ℚ) + 1 ≤ 2 ^ 53 := by exact_mod_cast this
        linarith
      have hqx : (q : ℚ) - x = -(1 / 2) := by linarith
      have heven := htie (by rw [hqx]; norm_num)
      have hqval : (q : ℚ) = 2 ^ 53 - 1 := by linarith
      have hqnat : q + 1 = 2 ^ 53 := by
        have : (q : ℚ) + 1 = 2 ^ 53 := by linarith
        exact_mod_cast this
      omega
  · have hv : 2 ^ 53 * (2 : ℚ) ^ (971 : ℤ) ≤ v := by
      refine le_trans ?_ (hnormal (by omega))
      rw [← zpow_natCast, ← zpow_add₀ (by norm_num)]
      exact zpow_le_zpow_right₀ (by norm_num) (by push_cast; omega)
    have hq := hge (by omega)
    generalize (2 : ℚ) ^ (971 : ℤ) = u at *
    exact iff_of_true (by omega) (by linarith)

/-- `round` gives the F64 nearest to the value it is given, with its sign. -/
theorem F64.nearestEven_round (neg : Bool) (hm : m ≠ 0) (hd : 0 ≤ d) (hd' : d < 1) (hsticky : sticky = true ↔ 0 < d)
    (hbits : sticky = true → 2 ^ 53 ≤ m) :
    F64.NearestEven (F64.signFactor neg * ((m + d) * (2 : ℚ) ^ e)) (F64.round neg m e sticky) := by
  have hover := F64.overflow_iff hm hd hd' hsticky hbits (e := e)
  have hkept := F64.kept_keptSignificand hm hd hd' hsticky hbits (e := e)
  have hvpos : 0 < (m + d) * (2 : ℚ) ^ e := by
    have : (0 : ℚ) < m := by exact_mod_cast Nat.pos_of_ne_zero hm
    positivity
  rw [F64.NearestEven, abs_mul, F64.abs_signFactor, one_mul, abs_of_pos hvpos]
  split
  case isTrue hinf =>
    rw [F64.round_eq hm, min_eq_right (hover.2 hinf), F64.inf]
    congr 1
    cases neg with
    | false => exact (decide_eq_false (by rw [F64.signFactor]; simpa using hvpos.le)).symm
    | true => exact (decide_eq_true (by rw [F64.signFactor]; simpa using hvpos)).symm
  case isFalse hfinite =>
    obtain ⟨hfin, hrat, hparity⟩ := F64.toRat_round hm neg e sticky (not_le.1 (mt hover.1 hfinite))
    refine ⟨hfin, fun y _ => ?_⟩
    have hsign : F64.signFactor neg * F64.signFactor neg = 1 := by cases neg <;> norm_num [F64.signFactor]
    -- seen from the side of the value's sign, y is the number that stands on that side
    obtain ⟨z, hz⟩ : ∃ z : F64, F64.toRat y = F64.signFactor neg * F64.toRat z := by
      cases neg with
      | false => exact ⟨y, by simp [F64.signFactor]⟩
      | true => exact ⟨F64.flip y, by simp [F64.signFactor, F64.toRat_flip]⟩
    have hdist (x : ℚ) : |F64.signFactor neg * x - F64.signFactor neg * ((m + d) * (2 : ℚ) ^ e)|
        = |x - (m + d) * (2 : ℚ) ^ e| := by
      rw [← mul_sub, abs_mul, F64.abs_signFactor, one_mul]
    rw [hrat, hz, hdist, hdist, hparity]
    refine (hkept.closest z).imp_right (And.imp_right (Or.imp_left fun h => ?_))
    rw [h]

/-- A zero is exact. -/
theorem F64.nearestEven_withSign_zero (neg : Bool) : F64.NearestEven 0 (F64.withSign neg 0) := by
  have hsmall : ¬ (2 : ℚ) ^ (1024 : ℕ) - (2 : ℚ) ^ (970 : ℕ) ≤ |0| := by
    rw [overflow_threshold, abs_zero, not_le]
    positivity
  rw [F64.NearestEven, if_neg hsmall, F64.toRat_withSign_zero, sub_zero, abs_zero]
  refine ⟨F64.isFinite_withSign (by norm_num), fun y _ => ?_⟩
  rw [sub_zero]
  rcases eq_or_ne (F64.toRat y) 0 with h | h
  · exact .inr ⟨by rw [h, abs_zero], .inl h⟩
  · exact .inl (abs_pos.2 h)

/-- `round` of a value without a remainder, zero included. -/
theorem F64.nearestEven_round_exact (neg : Bool) (m : Nat) (e : ℤ) :
    F64.NearestEven (F64.signFactor neg * (m * (2 : ℚ) ^ e)) (F64.round neg m e false) := by
  rcases eq_or_ne m 0 with rfl | hm
  · simpa using F64.nearestEven_withSign_zero neg
  · simpa using F64.nearestEven_round (sticky := false) (d := 0) (e := e) neg hm le_rfl one_pos (by simp) (by simp)

end

end Sys2Proof
end

section
/-! SUPPORT. The four operations and the conversions on finite numbers (00_scope.md R17). -/

namespace Sys2Proof

section
variable {a b : F64}

theorem F64.nearestEven_add (ha : F64.isFinite a = true) (hb : F64.isFinite b = true) :
    F64.NearestEven (F64.toRat a + F64.toRat b) (F64.add a b) := by
  rw [← F64.smant_shift a (min_le_left _ (F64.expo b)), ← F64.smant_shift b (min_le_right (F64.expo a) _),
    ← add_mul, ← Int.cast_add]
  simp only [F64.add, F64.isNaN_of_isFinite ha, F64.isNaN_of_isFinite hb, ha, hb, Bool.or_self, Bool.not_true,
    Bool.false_eq_true, if_false]
  generalize min (F64.expo a) (F64.expo b) = e at *
  generalize F64.smant a * _ + F64.smant b * _ = n at *
  split
  case isTrue hn =>
    rw [hn, Int.cast_zero, zero_mul]
    exact F64.nearestEven_withSign_zero _
  case isFalse hn =>
    rw [← F64.signFactor_mul_natAbs n, mul_assoc]
    exact F64.nearestEven_round_exact _ _ _

theorem F64.nearestEven_sub (ha : F64.isFinite a = true) (hb : F64.isFinite b = true) :
    F64.NearestEven (F64.toRat a - F64.toRat b) (F64.sub a b) := by
  rw [sub_eq_add_neg, ← F64.toRat_flip]
  exact F64.nearestEven_add ha (by rwa [F64.isFinite_flip])

theorem F64.nearestEven_mul (ha : F64.isFinite a = true) (hb : F64.isFinite b = true) :
    F64.NearestEven (F64.toRat a * F64.toRat b) (F64.mul a b) := by
  have hexact : F64.toRat a * F64.toRat b = F64.signFactor (F64.neg a != F64.neg b) *
      (((F64.mant a * F64.mant b : Nat) : ℚ) * (2 : ℚ) ^ (F64.expo a + F64.expo b)) := by
    rw [F64.toRat_eq, F64.toRat_eq, F64.signFactor_bne, zpow_add₀ (by norm_num)]
    push_cast
    ring
  rw [hexact]
  simp only [F64.mul, F64.isNaN_of_isFinite ha, F64.isNaN_of_isFinite hb, ha, hb, Bool.or_self, Bool.not_true,
    Bool.false_eq_true, if_false]
  exact F64.nearestEven_round_exact _ _ _

/-- The quotient kept has more than 54 digits, since 110 digits were appended to the dividend. -/
theorem F64.nearestEven_div (ha : F64.isFinite a = true) (hb : F64.isFinite b = true) (hb0 : F64.toRat b ≠ 0) :
    F64.NearestEven (F64.toRat a / F64.toRat b) (F64.div a b) := by
  have hmant := F64.mant_ne_zero_of_toRat_ne_zero hb0
  have hblt := F64.mant_lt b
  simp only [F64.div, F64.isNaN_of_isFinite ha, F64.isNaN_of_isFinite hb, F64.isZero_of_mant_ne_zero hmant, ha, hb,
    Bool.or_self, Bool.not_true, Bool.false_eq_true, if_false]
  have hpos : (0 : ℚ) < F64.mant b := by exact_mod_cast Nat.pos_of_ne_zero hmant
  have hdivmod : ((F64.mant a <<< 110 : Nat) : ℚ) =
      F64.mant b * (F64.mant a <<< 110 / F64.mant b : Nat) + (F64.mant a <<< 110 % F64.mant b : Nat) := by
    exact_mod_cast (Nat.div_add_mod (F64.mant a <<< 110) (F64.mant b)).symm
  have hmodlt : ((F64.mant a <<< 110 % F64.mant b : Nat) : ℚ) < F64.mant b := by
    exact_mod_cast Nat.mod_lt _ (Nat.pos_of_ne_zero hmant)
  have hexact : F64.toRat a / F64.toRat b = F64.signFactor (F64.neg a != F64.neg b) *
      (((F64.mant a <<< 110 / F64.mant b : Nat) + (F64.mant a <<< 110 % F64.mant b : Nat) / (F64.mant b : ℚ)) *
        (2 : ℚ) ^ (F64.expo a - 110 - F64.expo b)) := by
    have hquot : ((F64.mant a <<< 110 / F64.mant b : Nat) : ℚ) + (F64.mant a <<< 110 % F64.mant b : Nat) / (F64.mant b : ℚ)
        = F64.mant a * 2 ^ (110 : ℕ) / F64.mant b := by
      rw [eq_div_iff hpos.ne', add_mul, div_mul_cancel₀ _ hpos.ne', mul_comm, ← hdivmod, Nat.shiftLeft_eq]
      push_cast
      rfl
    have hsign (x : Bool) : (F64.signFactor x)⁻¹ = F64.signFactor x := by cases x <;> norm_num [F64.signFactor]
    rw [hquot, F64.toRat_eq, F64.toRat_eq, F64.signFactor_bne, zpow_sub₀ (by norm_num), zpow_sub₀ (by norm_num),
      mul_div_mul_comm, div_eq_mul_inv (F64.signFactor _), hsign, ← zpow_natCast]
    field_simp
    norm_num
  rw [hexact]
  rcases eq_or_ne (F64.mant a) 0 with h0 | h0
  · simpa [h0] using F64.nearestEven_withSign_zero _
  · have hlarge : 2 ^ 57 ≤ F64.mant a <<< 110 / F64.mant b := by
      rw [Nat.le_div_iff_mul_le (Nat.pos_of_ne_zero hmant), Nat.shiftLeft_eq]
      have ha1 : 1 ≤ F64.mant a := Nat.pos_of_ne_zero h0
      calc 2 ^ 57 * F64.mant b ≤ 2 ^ 57 * 2 ^ 53 := Nat.mul_le_mul_left _ hblt.le
        _ = 1 * 2 ^ 110 := by norm_num
        _ ≤ F64.mant a * 2 ^ 110 := Nat.mul_le_mul_right _ ha1
    generalize F64.mant a <<< 110 / F64.mant b = quot at hlarge ⊢
    refine F64.nearestEven_round _ (by omega) (div_nonneg (Nat.cast_nonneg _) hpos.le) ((div_lt_one hpos).2 hmodlt) ?_
      (fun _ => by omega)
    rw [decide_eq_true_iff, lt_div_iff₀ hpos, zero_mul, Nat.cast_pos, Nat.pos_iff_ne_zero]

end

/-! ### What being nearest tells -/

section
variable {q : ℚ} {r y z : F64}

theorem F64.abs_toRat_lt_threshold (h : F64.isFinite y = true) :
    |F64.toRat y| < (2 : ℚ) ^ (1024 : ℕ) - (2 : ℚ) ^ (970 : ℕ) := by
  have hfield : F64.expField y ≠ 2047 := of_decide_eq_true h
  have hexpo : F64.expo y ≤ 971 := by unfold F64.expo; unfold F64.expField at *; omega
  have hmant : (F64.mant y : ℚ) + 1 ≤ 2 ^ 53 := by exact_mod_cast F64.mant_lt y
  rw [overflow_threshold, F64.abs_toRat]
  calc (F64.mant y : ℚ) * (2 : ℚ) ^ F64.expo y ≤ F64.mant y * (2 : ℚ) ^ (971 : ℤ) := by
        gcongr
        norm_num
    _ < (2 ^ 53 - 1 / 2) * (2 : ℚ) ^ (971 : ℤ) := by
        gcongr
        linarith

/-- Rounding keeps to the same side of every finite number: a value between two of them is rounded to a finite number
between them. -/
theorem F64.NearestEven.between (h : F64.NearestEven q r) (hy : F64.isFinite y = true) (hz : F64.isFinite z = true)
    (hyq : F64.toRat y ≤ q) (hqz : q ≤ F64.toRat z) :
    F64.isFinite r = true ∧ F64.toRat y ≤ F64.toRat r ∧ F64.toRat r ≤ F64.toRat z := by
  have hq : ¬ (2 : ℚ) ^ (1024 : ℕ) - (2 : ℚ) ^ (970 : ℕ) ≤ |q| := by
    have hylt := (abs_lt.1 (F64.abs_toRat_lt_threshold hy)).1
    have hzlt := (abs_lt.1 (F64.abs_toRat_lt_threshold hz)).2
    exact not_le.2 (abs_lt.2 ⟨hylt.trans_le hyq, hqz.trans_lt hzlt⟩)
  rw [F64.NearestEven, if_neg hq] at h
  obtain ⟨hfin, hclosest⟩ := h
  have hle {x : F64} (hx : F64.isFinite x = true) : |F64.toRat r - q| ≤ |F64.toRat x - q| :=
    (hclosest x hx).elim le_of_lt fun h => h.1.le
  refine ⟨hfin, not_lt.1 fun hlt => ?_, not_lt.1 fun hlt => ?_⟩
  · have := hle hy
    rw [abs_of_neg (by linarith), abs_of_nonpos (by linarith)] at this
    linarith
  · have := hle hz
    rw [abs_of_pos (by linarith), abs_of_nonneg (by linarith)] at this
    linarith

/-- A value that is an F64 is given exactly. -/
theorem F64.NearestEven.exact (h : F64.NearestEven (F64.toRat y) r) (hy : F64.isFinite y = true) :
    F64.isFinite r = true ∧ F64.toRat r = F64.toRat y := by
  obtain ⟨hfin, hlow, hhigh⟩ := h.between hy hy le_rfl le_rfl
  exact ⟨hfin, le_antisymm hhigh hlow⟩

end

/-! ### Conversions -/

theorem F64.toRat_ofInt {n : ℤ} (h : |n| < 2 ^ 53) :
    F64.isFinite (F64.ofInt n) = true ∧ F64.toRat (F64.ofInt n) = n := by
  have hn : n.natAbs < 2 ^ 53 := by rwa [← Nat.cast_lt (α := ℤ), Int.natCast_natAbs]
  have hmax : (n.natAbs : ℚ) * (2 : ℚ) ^ (0 : ℤ) < (2 : ℚ) ^ (1024 : ℤ) := by
    rw [zpow_zero, mul_one]
    calc (n.natAbs : ℚ) < 2 ^ 53 := by exact_mod_cast hn
      _ = (2 : ℚ) ^ (53 : ℤ) := by norm_num
      _ ≤ (2 : ℚ) ^ (1024 : ℤ) := zpow_le_zpow_right₀ (by norm_num) (by norm_num)
  obtain ⟨hfin, hrat⟩ := F64.toRat_round_exact (decide (n < 0)) false hn (by norm_num) hmax
  exact ⟨hfin, by rw [F64.ofInt, hrat, zpow_zero, mul_one, F64.signFactor_mul_natAbs]⟩

theorem F64.ofNat_eq_ofInt (n : Nat) : F64.ofNat n = F64.ofInt n := by
  rw [F64.ofNat, F64.ofInt, Int.natAbs_natCast, decide_eq_false (by omega)]

theorem F64.toRat_ofNat {n : Nat} (h : n < 2 ^ 53) :
    F64.isFinite (F64.ofNat n) = true ∧ F64.toRat (F64.ofNat n) = n := by
  rw [F64.ofNat_eq_ofInt]
  simpa using F64.toRat_ofInt (n := n) (by rw [Nat.abs_cast]; exact_mod_cast h)

/-- A finite number is an integer, or an integer over a power of two. -/
theorem F64.toRat_of_expo_nonneg {x : F64} (h : 0 ≤ F64.expo x) :
    F64.toRat x = (F64.smant x * (1 <<< (F64.expo x).toNat : Nat) : ℤ) := by
  rw [F64.toRat, two_zpow_eq_mul_pow h, zpow_zero, sub_zero, Nat.one_shiftLeft]
  push_cast
  ring

theorem F64.toRat_of_expo_neg {x : F64} (h : ¬ 0 ≤ F64.expo x) :
    F64.toRat x = (F64.smant x : ℚ) / (1 <<< (-F64.expo x).toNat : Nat) := by
  have hexp : F64.expo x = -((-F64.expo x).toNat : ℤ) := by omega
  rw [F64.toRat, Nat.one_shiftLeft]
  conv_lhs => rw [hexp, zpow_neg, zpow_natCast]
  push_cast
  rw [div_eq_mul_inv]

theorem floor_of_isFinite {x : F64} (h : F64.isFinite x = true) : F64.floor x = ⌊F64.toRat x⌋ := by
  rw [F64.floor, h]
  simp only [Bool.not_true, Bool.false_eq_true, if_false]
  split
  case isTrue hexpo => rw [F64.toRat_of_expo_nonneg hexpo, Int.floor_intCast]
  case isFalse hexpo =>
    rw [F64.toRat_of_expo_neg hexpo, Rat.floor_intCast_div_natCast, Int.fdiv_eq_ediv_of_nonneg _ (by positivity)]

theorem tdiv_eq_floor_or_ceil (n : ℤ) {d : Nat} (hd : 0 < d) :
    Int.tdiv n d = if 0 ≤ (n : ℚ) / d then ⌊(n : ℚ) / d⌋ else ⌈(n : ℚ) / d⌉ := by
  have hd' : (0 : ℚ) < d := by exact_mod_cast hd
  rcases le_or_gt 0 n with hn | hn
  · have hq : 0 ≤ (n : ℚ) / d := by positivity
    rw [if_pos hq, Rat.floor_intCast_div_natCast, Int.tdiv_eq_ediv_of_nonneg hn]
  · have hq : ¬ 0 ≤ (n : ℚ) / d := not_le.2 (div_neg_of_neg_of_pos (by exact_mod_cast hn) hd')
    rw [if_neg hq, Rat.ceil_intCast_div_natCast, ← Int.tdiv_eq_ediv_of_nonneg (by omega), Int.neg_tdiv, neg_neg]

theorem trunc_of_isFinite {x : F64} (h : F64.isFinite x = true) :
    F64.trunc x = if 0 ≤ F64.toRat x then ⌊F64.toRat x⌋ else ⌈F64.toRat x⌉ := by
  rw [F64.trunc, h]
  simp only [Bool.not_true, Bool.false_eq_true, if_false]
  split
  case isTrue hexpo => rw [F64.toRat_of_expo_nonneg hexpo, Int.floor_intCast, Int.ceil_intCast, ite_self]
  case isFalse hexpo =>
    rw [F64.toRat_of_expo_neg hexpo]
    exact tdiv_eq_floor_or_ceil _ (by rw [Nat.one_shiftLeft]; positivity)

end Sys2Proof
end

section
/-! PROOFS. The statements about binary64 arithmetic (00_scope.md R17, 41_transform.md R197). -/

namespace Sys2Proof

/-- Settles O55: each operation rounds its exact result once. -/
theorem arithmeticIsRoundedToNearest : Obligations.ArithmeticIsRoundedToNearest := by
  unfold Obligations.ArithmeticIsRoundedToNearest
  exact fun a b ha hb => ⟨F64.nearestEven_add ha hb, F64.nearestEven_sub ha hb, F64.nearestEven_mul ha hb,
    F64.nearestEven_div ha hb⟩

/-- Settles O56: a finite number is an integer over a power of two. -/
theorem conversionsAreExact : Obligations.ConversionsAreExact := by
  unfold Obligations.ConversionsAreExact
  refine ⟨fun x h => ⟨floor_of_isFinite h, trunc_of_isFinite h⟩, fun x h => ?_, fun n h => F64.toRat_ofInt h⟩
  rw [F64.floor, F64.trunc, h]
  exact ⟨rfl, rfl⟩

theorem toRat_c128 : F64.toRat F64.c128 = 128 := by
  have h1 : F64.smant F64.c128 = 2 ^ 52 := by decide +kernel
  have h2 : F64.expo F64.c128 = -45 := by decide +kernel
  rw [F64.toRat, h1, h2]
  norm_num

/-- Half of an integer below 2^53 is an F64. -/
theorem exists_toRat_eq_half {n : ℤ} (h : |n| < 2 ^ 53) : ∃ y : F64, F64.isFinite y = true ∧ F64.toRat y = n / 2 := by
  have hn : n.natAbs < 2 ^ 53 := by rwa [← Nat.cast_lt (α := ℤ), Int.natCast_natAbs]
  have hmax : (n.natAbs : ℚ) * (2 : ℚ) ^ (-1 : ℤ) < (2 : ℚ) ^ (1024 : ℤ) := by
    calc (n.natAbs : ℚ) * (2 : ℚ) ^ (-1 : ℤ) < 2 ^ 53 * (2 : ℚ) ^ (-1 : ℤ) := by gcongr; exact_mod_cast hn
      _ = (2 : ℚ) ^ (52 : ℤ) := by norm_num
      _ ≤ (2 : ℚ) ^ (1024 : ℤ) := zpow_le_zpow_right₀ (by norm_num) (by norm_num)
  obtain ⟨hfin, hrat⟩ := F64.toRat_round_exact (decide (n < 0)) false hn (by norm_num) hmax
  refine ⟨_, hfin, ?_⟩
  rw [hrat, ← mul_assoc, F64.signFactor_mul_natAbs, zpow_neg_one, div_eq_mul_inv]

/-- A reconstructed value y with 128 added back, where y + 128 is v exactly (41_transform.md R194). -/
theorem trunc_add_c128_of_eq {y : F64} {v : Nat} (hv : v ≤ 255) (hy : F64.isFinite y = true)
    (h : F64.toRat y = (v : ℚ) - 128) : F64.trunc (F64.add y F64.c128) = v := by
  have hadd := F64.nearestEven_add hy (b := F64.c128) (by decide)
  obtain ⟨hvfin, hvrat⟩ := F64.toRat_ofNat (n := v) (by omega)
  rw [h, toRat_c128, sub_add_cancel, ← hvrat] at hadd
  obtain ⟨hfin, hrat⟩ := hadd.exact hvfin
  rw [trunc_of_isFinite hfin, hrat, hvrat, if_pos (by positivity), Int.floor_natCast]

/-- Settles O41: v - 1/2 and v + 1/2 are F64s, so the sum is rounded to a number between them. -/
theorem reconstructionTruncates : Obligations.ReconstructionTruncates := by
  unfold Obligations.ReconstructionTruncates
  intro y v hv hy
  refine ⟨fun herr => ?_, trunc_add_c128_of_eq hv hy⟩
  have hadd := F64.nearestEven_add hy (b := F64.c128) (by decide)
  obtain ⟨low, hlowfin, hlow⟩ := exists_toRat_eq_half (n := 2 * v - 1) (by rw [abs_lt]; omega)
  obtain ⟨high, hhighfin, hhigh⟩ := exists_toRat_eq_half (n := 2 * v + 1) (by rw [abs_lt]; omega)
  push_cast at hlow hhigh
  obtain ⟨herrlow, herrhigh⟩ := abs_le.1 herr
  rw [toRat_c128] at hadd
  obtain ⟨hfin, hge, hle⟩ := hadd.between hlowfin hhighfin (by linarith) (by linarith)
  rw [hlow] at hge
  rw [hhigh] at hle
  rw [trunc_of_isFinite hfin]
  generalize F64.toRat (F64.add y F64.c128) = w at *
  rcases Nat.eq_zero_or_pos v with rfl | hpos
  · left
    split
    · exact Int.floor_eq_iff.2 ⟨by push_cast; linarith, by push_cast; linarith⟩
    · exact Int.ceil_eq_iff.2 ⟨by push_cast; linarith, by push_cast; linarith⟩
  · have hone : (1 : ℚ) ≤ v := by exact_mod_cast hpos
    rw [if_pos (by linarith)]
    rcases le_or_gt (v : ℚ) w with h | h
    · exact .inl (Int.floor_eq_iff.2 ⟨by push_cast; linarith, by push_cast; linarith⟩)
    · exact .inr ⟨hpos, Int.floor_eq_iff.2 ⟨by push_cast; linarith, by push_cast; linarith⟩⟩

end Sys2Proof
end

section
/-! SUPPORT. The cells of the coefficient files and of WIDE, and what FWD and INV leave in them (41_transform.md R180, R188,
R191, R194, R195). -/

namespace Sys2Proof.Machine

/-! ### Cells -/

theorem channelIndex_inj {c c' : Channel} (h : channelIndex c = channelIndex c') : c = c' := by
  have h' := congrArg channelAt h
  rwa [channelAt_channelIndex, channelAt_channelIndex, Option.some.injEq] at h'

theorem coefCell_eq (ax : Axis) (n e : Nat) (c : Channel) :
    coefCell ax n e c = 4 * (coefStride ax * n + e) + channelIndex c := by
  cases ax <;> rfl

/-- Inside the stride, coefficients have cells of their own (20_memory.md R105). -/
theorem coefCell_inj {ax : Axis} {n e n' e' : Nat} {c c' : Channel} (he : e < coefStride ax) (he' : e' < coefStride ax)
    (h : coefCell ax n e c = coefCell ax n' e' c') : n = n' ∧ e = e' ∧ c = c' := by
  rw [coefCell_eq, coefCell_eq] at h
  have hc := channelIndex_lt c
  have hc' := channelIndex_lt c'
  cases ax with
  | rad =>
    simp only [coefStride] at *
    exact ⟨by omega, by omega, channelIndex_inj (by omega)⟩
  | ang =>
    simp only [coefStride] at *
    exact ⟨by omega, by omega, channelIndex_inj (by omega)⟩

theorem wideCell_inj {sec l sec' l' : Nat} {c c' : Channel} (hl : l < 256) (hl' : l' < 256)
    (h : wideCell sec l c = wideCell sec' l' c') : sec = sec' ∧ l = l' ∧ c = c' := by
  unfold wideCell at h
  have hc := channelIndex_lt c
  have hc' := channelIndex_lt c'
  exact ⟨by omega, by omega, channelIndex_inj (by omega)⟩

/-- A line of an axis lies inside the grid. -/
theorem lineCell_bounds {s : State} {ax : Axis} {n p : Nat} (hn : n < lineCount s ax) (hp : p < lineLength s ax) :
    (lineCell ax n p).1 < s.regs.gridS.toNat ∧ (lineCell ax n p).2 < s.regs.gridL.toNat := by
  cases ax with
  | rad => exact ⟨hn, hp⟩
  | ang => exact ⟨hp, hn⟩

theorem exists_lineCell {s : State} (ax : Axis) {sec l : Nat} (hs : sec < s.regs.gridS.toNat)
    (hl : l < s.regs.gridL.toNat) :
    ∃ n p, n < lineCount s ax ∧ p < lineLength s ax ∧ lineCell ax n p = (sec, l) := by
  cases ax with
  | rad => exact ⟨sec, l, hs, hl, rfl⟩
  | ang => exact ⟨l, sec, hl, hs, rfl⟩

theorem lineCell_inj {ax : Axis} {n p n' p' : Nat} (h1 : (lineCell ax n p).1 = (lineCell ax n' p').1)
    (h2 : (lineCell ax n p).2 = (lineCell ax n' p').2) : n = n' ∧ p = p' := by
  cases ax with
  | rad => exact ⟨h1, h2⟩
  | ang => exact ⟨h2, h1⟩

theorem lineLength_le_coefStride {s : State} (h : ShapeInBounds s) (ax : Axis) : lineLength s ax ≤ coefStride ax := by
  cases ax with
  | rad => exact h.2.trans Config.lMax_bounds.2
  | ang => exact h.1.trans Config.sMax_bounds.2

/-! ### Blocks -/

/-- Position i of block b is one of the NB * N positions that are not dropped (41_transform.md R184). -/
theorem block_position_lt {M N b i : Nat} (hb : b < M / N) (hi : i < N) : b * N + i < M / N * N :=
  calc b * N + i < b * N + N := by omega
    _ = (b + 1) * N := by rw [Nat.add_mul, Nat.one_mul]
    _ ≤ M / N * N := Nat.mul_le_mul_right N hb

theorem block_position_inj {N b i b' i' : Nat} (hi : i < N) (hi' : i' < N) (h : b * N + i = b' * N + i') :
    b = b' ∧ i = i' := by
  have hdiv := congrArg (· / N) h
  have hmod := congrArg (· % N) h
  simp only [Nat.mul_comm _ N, Nat.mul_add_div (by omega : N > 0), Nat.div_eq_of_lt hi, Nat.div_eq_of_lt hi',
    Nat.mul_add_mod, Nat.mod_eq_of_lt hi, Nat.mod_eq_of_lt hi', Nat.add_zero] at hdiv hmod
  exact ⟨hdiv, hmod⟩

/-! ### FWD -/

theorem mem_channels (c : Channel) : c ∈ channels := by
  cases c <;> decide

theorem mem_fwdCells_iff {s : State} {ax : Axis} {bs : Basis} {N k : Nat} {v : Coef} :
    (k, v) ∈ fwdCells s ax bs N ↔ ∃ n b i c, n < lineCount s ax ∧ b < lineLength s ax / N ∧ i < N ∧
      k = coefCell ax n (b * N + i) c ∧ v = blockCoef bs (blockSamples s ax n b N c) i N := by
  simp only [fwdCells, List.mem_flatMap, List.mem_map, List.mem_range, blockCount, Prod.mk.injEq]
  constructor
  · rintro ⟨n, hn, b, hb, c, -, i, hi, hk, hv⟩
    exact ⟨n, b, i, c, hn, hb, hi, hk.symm, hv.symm⟩
  · rintro ⟨n, b, i, c, hn, hb, hi, hk, hv⟩
    exact ⟨n, hn, b, hb, c, mem_channels c, i, hi, hk.symm, hv.symm⟩

theorem readCoef_writeCoef_of_mem {ax : Axis} {cells : List (Nat × Coef)} {n e : Nat} {c : Channel} {v : Coef} (s : State)
    (h : (coefCell ax n e c, v) ∈ cells) (agree : ∀ w, (coefCell ax n e c, w) ∈ cells → w = v) :
    readCoef (writeCoef ax cells s) ax n e c = v := by
  cases ax <;> exact cellOr_writeAll_of_mem _ _ _ h agree

theorem readCoef_writeCoef_of_notMem {ax : Axis} {cells : List (Nat × Coef)} {n e : Nat} {c : Channel} (s : State)
    (h : ∀ d ∈ cells, d.1 ≠ coefCell ax n e c) : readCoef (writeCoef ax cells s) ax n e c = readCoef s ax n e c := by
  cases ax <;> exact cellOr_writeAll_of_notMem _ _ _ h

theorem readCoef_latchFwd (ax ax' : Axis) (bs : Basis) (s : State) (n e : Nat) (c : Channel) :
    readCoef (latchFwd ax bs s) ax' n e c = readCoef s ax' n e c := rfl

section
variable {s : State} {ax : Axis} {bs : Basis} {n : Nat} {c : Channel}

theorem readCoef_fwdPass (hshape : ShapeInBounds s) {b i : Nat} (hn : n < lineCount s ax)
    (hb : b < lineLength s ax / s.regs.ftN.toNat) (hi : i < s.regs.ftN.toNat) :
    readCoef (fwdPass ax bs s) ax n (b * s.regs.ftN.toNat + i) c =
      blockCoef bs (blockSamples s ax n b s.regs.ftN.toNat c) i s.regs.ftN.toNat := by
  have inside {b' i' : Nat} (hb' : b' < lineLength s ax / s.regs.ftN.toNat) (hi' : i' < s.regs.ftN.toNat) :
      b' * s.regs.ftN.toNat + i' < coefStride ax :=
    (block_position_lt hb' hi').trans_le ((Nat.div_mul_le_self _ _).trans (lineLength_le_coefStride hshape ax))
  rw [fwdPass, readCoef_latchFwd]
  refine readCoef_writeCoef_of_mem s (mem_fwdCells_iff.2 ⟨n, b, i, c, hn, hb, hi, rfl, rfl⟩) fun w hw => ?_
  obtain ⟨n', b', i', c', -, hb', hi', hk, rfl⟩ := mem_fwdCells_iff.1 hw
  obtain ⟨rfl, he, rfl⟩ := coefCell_inj (inside hb hi) (inside hb' hi') hk
  obtain ⟨rfl, rfl⟩ := block_position_inj hi hi' he
  rfl

theorem readCoef_fwdPass_of_outside (hshape : ShapeInBounds s) {e : Nat} (he : e < coefStride ax)
    (hout : lineCount s ax ≤ n ∨ lineLength s ax / s.regs.ftN.toNat * s.regs.ftN.toNat ≤ e) :
    readCoef (fwdPass ax bs s) ax n e c = readCoef s ax n e c := by
  rw [fwdPass, readCoef_latchFwd]
  refine readCoef_writeCoef_of_notMem s ?_
  rintro ⟨k, v⟩ hd hk
  obtain ⟨n', b', i', c', hn', hb', hi', rfl, -⟩ := mem_fwdCells_iff.1 hd
  have hpos := block_position_lt hb' hi'
  obtain ⟨rfl, rfl, rfl⟩ := coefCell_inj
    (hpos.trans_le ((Nat.div_mul_le_self _ _).trans (lineLength_le_coefStride hshape ax))) he hk
  omega

end

theorem exec_fwd_of_ready {s : State} {ax : Axis} {bs : Basis} (hgrid : s.regs.status.gridValid = true)
    (hN : 1 ≤ s.regs.ftN.toNat) (hN' : s.regs.ftN.toNat ≤ Config.nMax) :
    exec (.fwd ax bs) s = .next (fwdPass ax bs s) := by
  change execFwd ax bs s = _
  rw [execFwd, (checkFwd_eq_none_iff s).2 ⟨hgrid, hN, hN'⟩]

@[simp] theorem fwdPass_regs (ax : Axis) (bs : Basis) (s : State) :
    (fwdPass ax bs s).regs = (latchFwd ax bs s).regs := by
  rw [fwdPass, latchFwd_regs, latchFwd_regs, writeCoef_regs]

/-! ### INV -/

/-- The three values of a reconstructed cell, by channel. -/
def Recon.value (v : Recon) : Channel → Int
  | .red => v.r
  | .green => v.g
  | .blue => v.b

theorem reconAt_value (s : State) (ax : Axis) (n p : Nat) (c : Channel) :
    (reconAt s ax n p).value c = invSample s ax n p c := by
  cases c <;> rfl

theorem mem_recons_iff {s : State} {ax : Axis} {v : Recon} :
    v ∈ recons s ax ↔ ∃ n p, n < lineCount s ax ∧ p < lineLength s ax ∧ reconAt s ax n p = v := by
  simp [recons]

theorem mem_wideCells_iff {v : Recon} {k : Nat} {w : Word} :
    (k, w) ∈ wideCells v ↔ ∃ c, k = wideCell v.sec v.light c ∧ w = BitVec.ofInt 32 (v.value c) := by
  simp only [wideCells, List.mem_cons, Prod.mk.injEq, List.not_mem_nil, or_false]
  constructor
  · rintro (⟨hk, hw⟩ | ⟨hk, hw⟩ | ⟨hk, hw⟩)
    · exact ⟨.red, hk, hw⟩
    · exact ⟨.green, hk, hw⟩
    · exact ⟨.blue, hk, hw⟩
  · rintro ⟨c, hk, hw⟩
    cases c with
    | red => exact .inl ⟨hk, hw⟩
    | green => exact .inr (.inl ⟨hk, hw⟩)
    | blue => exact .inr (.inr ⟨hk, hw⟩)

section
variable {s : State} {ax : Axis} {n p sec l : Nat}

theorem light_lt (hshape : ShapeInBounds s) (hn : n < lineCount s ax) (hp : p < lineLength s ax) :
    (lineCell ax n p).2 < 256 :=
  (lineCell_bounds hn hp).2.trans_le (hshape.2.trans Config.lMax_bounds.2)

theorem mem_recons_wide_iff {k : Nat} {w : Word} :
    (k, w) ∈ (recons s ax).flatMap wideCells ↔ ∃ n p c, n < lineCount s ax ∧ p < lineLength s ax ∧
      k = wideCell (lineCell ax n p).1 (lineCell ax n p).2 c ∧ w = BitVec.ofInt 32 (invSample s ax n p c) := by
  rw [List.mem_flatMap]
  constructor
  · rintro ⟨v, hv, hw⟩
    obtain ⟨n, p, hn, hp, rfl⟩ := mem_recons_iff.1 hv
    obtain ⟨c, hk, hwv⟩ := mem_wideCells_iff.1 hw
    exact ⟨n, p, c, hn, hp, hk, by rw [hwv, reconAt_value]⟩
  · rintro ⟨n, p, c, hn, hp, hk, hw⟩
    exact ⟨_, mem_recons_iff.2 ⟨n, p, hn, hp, rfl⟩, mem_wideCells_iff.2 ⟨c, hk, by rw [hw, reconAt_value]⟩⟩

theorem readWide_invPass (hshape : ShapeInBounds s) (hn : n < lineCount s ax) (hp : p < lineLength s ax) (c : Channel) :
    readWide (invPass ax s) (lineCell ax n p).1 (lineCell ax n p).2 c = BitVec.ofInt 32 (invSample s ax n p c) := by
  refine cellOr_writeAll_of_mem _ _ _ (mem_recons_wide_iff.2 ⟨n, p, c, hn, hp, rfl, rfl⟩) fun w hw => ?_
  obtain ⟨n', p', c', hn', hp', hk, rfl⟩ := mem_recons_wide_iff.1 hw
  obtain ⟨h1, h2, rfl⟩ := wideCell_inj (light_lt hshape hn hp) (light_lt hshape hn' hp') hk
  obtain ⟨rfl, rfl⟩ := lineCell_inj h1 h2
  rfl

theorem readWide_invPass_of_outside (hshape : ShapeInBounds s) (hl : l < 256)
    (hout : s.regs.gridS.toNat ≤ sec ∨ s.regs.gridL.toNat ≤ l) (c : Channel) :
    readWide (invPass ax s) sec l c = readWide s sec l c := by
  refine cellOr_writeAll_of_notMem _ _ _ ?_
  rintro ⟨k, w⟩ hc hk
  obtain ⟨n', p', c', hn', hp', rfl, -⟩ := mem_recons_wide_iff.1 hc
  obtain ⟨rfl, rfl, rfl⟩ := wideCell_inj (light_lt hshape hn' hp') hl hk
  obtain ⟨hs, hl'⟩ := lineCell_bounds hn' hp'
  omega

/-- The color INV stores for position p of line n (R194). -/
def invColor (s : State) (ax : Axis) (n p : Nat) : Color :=
  pack (clamp8 (invSample s ax n p .red)) (clamp8 (invSample s ax n p .green)) (clamp8 (invSample s ax n p .blue))

theorem mem_recons_inv_iff {k : Nat} {v : Color} :
    (k, v) ∈ (recons s ax).map invColorCell ↔ ∃ n p, n < lineCount s ax ∧ p < lineLength s ax ∧
      k = gridCell (lineCell ax n p).1 (lineCell ax n p).2 ∧ v = invColor s ax n p := by
  rw [List.mem_map]
  constructor
  · rintro ⟨v, hv, he⟩
    obtain ⟨n, p, hn, hp, rfl⟩ := mem_recons_iff.1 hv
    cases he
    exact ⟨n, p, hn, hp, rfl, rfl⟩
  · rintro ⟨n, p, hn, hp, rfl, rfl⟩
    exact ⟨_, mem_recons_iff.2 ⟨n, p, hn, hp, rfl⟩, rfl⟩

theorem readInv_invPass (hshape : ShapeInBounds s) (hn : n < lineCount s ax) (hp : p < lineLength s ax) :
    readInv (invPass ax s) (lineCell ax n p).1 (lineCell ax n p).2 = invColor s ax n p := by
  refine cellOr_writeAll_of_mem _ _ _ (mem_recons_inv_iff.2 ⟨n, p, hn, hp, rfl, rfl⟩) fun w hw => ?_
  obtain ⟨n', p', hn', hp', hk, rfl⟩ := mem_recons_inv_iff.1 hw
  obtain ⟨h1, h2⟩ := gridCell_inj (light_lt hshape hn hp) (light_lt hshape hn' hp') hk
  obtain ⟨rfl, rfl⟩ := lineCell_inj h1 h2
  rfl

theorem readInv_invPass_of_outside (hshape : ShapeInBounds s) (hl : l < 256)
    (hout : s.regs.gridS.toNat ≤ sec ∨ s.regs.gridL.toNat ≤ l) :
    readInv (invPass ax s) sec l = readInv s sec l := by
  refine cellOr_writeAll_of_notMem _ _ _ ?_
  rintro ⟨k, w⟩ hc hk
  obtain ⟨n', p', hn', hp', rfl, -⟩ := mem_recons_inv_iff.1 hc
  obtain ⟨rfl, rfl⟩ := gridCell_inj (light_lt hshape hn' hp') hl hk
  obtain ⟨hs, hl'⟩ := lineCell_bounds hn' hp'
  omega

/-- A position INV does not drop (R194). -/
theorem invSample_of_lt (c : Channel) (hp : p < lineLength s ax / coefN s ax * coefN s ax) :
    invSample s ax n p c = F64.trunc (F64.add
      (blockInv (coefBasis ax s.regs.status) (keepIndex s)
        (blockCoefs s ax n (p / coefN s ax) (coefN s ax) c) (p % coefN s ax) (coefN s ax)) F64.c128) :=
  if_pos hp

/-- A dropped position (R195). -/
theorem invSample_of_le (c : Channel) (hp : lineLength s ax / coefN s ax * coefN s ax ≤ p) :
    invSample s ax n p c = 0 :=
  if_neg (Nat.not_lt.2 hp)

end

theorem clamp8_eq (w : Int) : clamp8 w = BitVec.ofInt 8 (max 0 (min 255 w)) := by
  unfold clamp8 clamp
  congr 1
  omega

theorem exec_inv_of_valid {s : State} {ax : Axis} (h : coefValid ax s.regs.status = true) :
    exec (.inv ax) s = .next (invPass ax s) := by
  change execInv ax s = _
  rw [execInv, if_pos h]

end Sys2Proof.Machine
end

section
/-! PROOFS. The statements about completed FWD and INV commands (41_transform.md R180, R188, R191, R194, R195). -/

namespace Sys2Proof.Machine

/-- Settles O33: the coefficients of a line's blocks have cells of their own. -/
theorem fwdCompletes : Obligations.FwdCompletes := by
  unfold Obligations.FwdCompletes
  intro s ax bs hshape hgrid hN hN'
  have hport := (keepsConfiguration_of_exec (exec_fwd_of_ready (ax := ax) (bs := bs) hgrid hN hN')).port
  refine ⟨fwdPass ax bs s, exec_fwd_of_ready hgrid hN hN', ?regs, fun n b i k hn hb hi => readCoef_fwdPass hshape hn hb hi,
    fun n e k he hout => readCoef_fwdPass_of_outside hshape he hout, ?mems, hport⟩
  case regs => cases ax <;> rfl
  case mems =>
    refine (keepsAllBut_fwdPass ax bs s).keepsMems ?_
    cases ax <;> decide

/-- Settles O37: every cell of the grid is reconstructed once, and the dropped ones to 0. -/
theorem invCompletes : Obligations.InvCompletes := by
  unfold Obligations.InvCompletes
  intro s ax hshape hvalid
  refine ⟨invPass ax s, exec_inv_of_valid hvalid, rfl, fun n p k hn hp => ?wide, fun n p hn hp => ?inv,
    fun n p hn hdrop hp => ?dropped, fun sec l hl hout => ⟨readInv_invPass_of_outside hshape hl hout,
      fun k => readWide_invPass_of_outside hshape hl hout k⟩,
    (keepsAllBut_invPass ax s).keepsMems (by decide), rfl, rfl, rfl⟩
  case wide =>
    rw [readWide_invPass hshape hn hp]
    split
    case isTrue hkept => exact congrArg _ (invSample_of_lt k hkept)
    case isFalse hdrop =>
      rw [invSample_of_le k (Nat.not_lt.1 hdrop)]
      rfl
  case inv =>
    rw [readInv_invPass hshape hn hp, invColor, clamp8_eq, clamp8_eq, clamp8_eq]
    rfl
  case dropped =>
    rw [readInv_invPass hshape hn hp, invColor, invSample_of_le _ hdrop, invSample_of_le _ hdrop, invSample_of_le _ hdrop]
    rfl

end Sys2Proof.Machine
end

section
/-! SUPPORT. Exact arithmetic: where the exact result of an operation is an F64, the operation gives it (00_scope.md
R17). -/

namespace Sys2Proof

/-- x is finite and stands for q. -/
def F64.Stands (q : ℚ) (x : F64) : Prop := F64.isFinite x = true ∧ F64.toRat x = q

/-- q is the number of some F64. -/
def F64.Representable (q : ℚ) : Prop := ∃ y, F64.Stands q y

section
variable {p q : ℚ} {a b x : F64}

theorem F64.Stands.representable (h : F64.Stands q x) : F64.Representable q := ⟨x, h⟩

theorem F64.Stands.of_nearestEven (h : F64.NearestEven q x) (hq : F64.Representable q) : F64.Stands q x := by
  obtain ⟨y, hfin, rfl⟩ := hq
  exact h.exact hfin

theorem F64.Stands.add (ha : F64.Stands p a) (hb : F64.Stands q b) (h : F64.Representable (p + q)) :
    F64.Stands (p + q) (F64.add a b) := by
  obtain ⟨hafin, rfl⟩ := ha
  obtain ⟨hbfin, rfl⟩ := hb
  exact .of_nearestEven (F64.nearestEven_add hafin hbfin) h

theorem F64.Stands.mul (ha : F64.Stands p a) (hb : F64.Stands q b) (h : F64.Representable (p * q)) :
    F64.Stands (p * q) (F64.mul a b) := by
  obtain ⟨hafin, rfl⟩ := ha
  obtain ⟨hbfin, rfl⟩ := hb
  exact .of_nearestEven (F64.nearestEven_mul hafin hbfin) h

theorem F64.Stands.div (ha : F64.Stands p a) (hb : F64.Stands q b) (hq : q ≠ 0) (h : F64.Representable (p / q)) :
    F64.Stands (p / q) (F64.div a b) := by
  obtain ⟨hafin, rfl⟩ := ha
  obtain ⟨hbfin, rfl⟩ := hb
  exact .of_nearestEven (F64.nearestEven_div hafin hbfin hq) h

theorem F64.stands_ofInt {n : ℤ} (h : |n| < 2 ^ 53) : F64.Stands n (F64.ofInt n) := F64.toRat_ofInt h

theorem F64.stands_ofNat {n : Nat} (h : n < 2 ^ 53) : F64.Stands n (F64.ofNat n) := F64.toRat_ofNat h

theorem F64.representable_half {n : ℤ} (h : |n| < 2 ^ 53) : F64.Representable (n / 2) := exists_toRat_eq_half h

theorem F64.stands_zero : F64.Stands 0 F64.zero := ⟨by decide, F64.toRat_withSign_zero false⟩

theorem F64.stands_one : F64.Stands 1 F64.one := by
  have h1 : F64.smant F64.one = 2 ^ 52 := by decide +kernel
  have h2 : F64.expo F64.one = -52 := by decide +kernel
  exact ⟨by decide, by rw [F64.toRat, h1, h2]; norm_num⟩

theorem F64.stands_two : F64.Stands 2 F64.two := by
  have h1 : F64.smant F64.two = 2 ^ 52 := by decide +kernel
  have h2 : F64.expo F64.two = -51 := by decide +kernel
  exact ⟨by decide, by rw [F64.toRat, h1, h2]; norm_num⟩

theorem F64.stands_half : F64.Stands (1 / 2) F64.half := by
  have h1 : F64.smant F64.half = 2 ^ 52 := by decide +kernel
  have h2 : F64.expo F64.half = -53 := by decide +kernel
  exact ⟨by decide, by rw [F64.toRat, h1, h2]; norm_num⟩

/-- Zero over a number that is not zero. -/
theorem F64.Stands.div_of_zero (ha : F64.Stands 0 a) (hb : F64.Stands q b) (hq : q ≠ 0) : F64.Stands 0 (F64.div a b) := by
  have hquot : 0 / q = 0 := by simp
  have h := ha.div hb hq (by rw [hquot]; exact F64.stands_zero.representable)
  rwa [hquot] at h

end

end Sys2Proof
end

section
/-! PROOFS. What INV reconstructs in two cases: no index kept, and blocks of one sample (41_transform.md R191, R197). -/

namespace Sys2Proof.Machine

/-- A value that stands for v - 128 is reconstructed to v (R194). -/
theorem trunc_add_c128 {y : F64} {v : Nat} (hv : v ≤ 255) (h : F64.Stands ((v : ℚ) - 128) y) :
    F64.trunc (F64.add y F64.c128) = v :=
  trunc_add_c128_of_eq hv h.1 h.2

/-! ### No index kept -/

theorem foldl_kept_none {α : Type} {keep : Nat → Bool} (f : F64 → α × Nat → F64) {X : List α} (z : F64)
    (h : ∀ i, i < X.length → keep i = false) :
    X.zipIdx.foldl (fun acc c => if keep c.2 then f acc c else acc) z = z := by
  have hskip : ∀ c ∈ X.zipIdx, keep c.2 = false := fun c hc => h c.2 (by
    have := List.mk_mem_zipIdx_iff_getElem?.1 hc
    exact (List.getElem?_eq_some_iff.1 this).1)
  generalize X.zipIdx = l at hskip
  induction l with
  | nil => rfl
  | cons c l ih =>
    rw [List.foldl_cons, if_neg (by rw [hskip c List.mem_cons_self]; decide)]
    exact ih fun d hd => hskip d (List.mem_cons_of_mem c hd)

/-- Nothing kept is a sum over nothing: 0 in both bases. -/
theorem blockInv_of_none_kept {bs : Basis} {keep : Nat → Bool} {X : List Coef} {j N : Nat} (hN : 0 < N) (hN' : N < 2 ^ 53)
    (h : ∀ i, i < X.length → keep i = false) : F64.Stands 0 (blockInv bs keep X j N) := by
  have hden := F64.stands_ofNat hN'
  have hden0 : (N : ℚ) ≠ 0 := by exact_mod_cast hN.ne'
  cases bs with
  | fourier =>
    rw [blockInv, fourierInv, foldl_kept_none (fun acc c => F64.add acc _) _ h]
    exact F64.stands_zero.div_of_zero hden hden0
  | cosine =>
    rw [blockInv, cosineInv, foldl_kept_none (fun acc c => F64.add acc _) _ h]
    have hmul := F64.stands_zero.mul F64.stands_two (by rw [zero_mul]; exact F64.stands_zero.representable)
    rw [zero_mul] at hmul
    exact hmul.div_of_zero hden hden0

theorem coefN_lt (s : State) (ax : Axis) : coefN s ax < 65536 := by
  cases ax <;> exact BitVec.isLt _

/-- Settles O39: every position's sum is over nothing, so its value is 0 + 128. -/
theorem emptyBandGives128 : Obligations.EmptyBandGives128 := by
  unfold Obligations.EmptyBandGives128
  intro s t ax hshape hvalid hkeep hexec n p k hn hp
  obtain rfl := Host.Outcome.next.inj ((exec_inv_of_valid hvalid).symm.trans hexec)
  have hN : 0 < coefN s ax := Nat.pos_of_ne_zero fun h => by simp [h] at hp
  have hlen : p < lineLength s ax := hp.trans_le (Nat.div_mul_le_self _ _)
  have hvalue (c : Channel) : invSample s ax n p c = 128 := by
    rw [invSample_of_lt c hp]
    refine trunc_add_c128 (v := 128) (by norm_num) ?_
    rw [Nat.cast_ofNat, sub_self]
    exact blockInv_of_none_kept hN ((coefN_lt s ax).trans (by norm_num)) fun i hi => hkeep i (by simpa [blockCoefs] using hi)
  rw [readWide_invPass hshape hn hlen, readInv_invPass hshape hn hlen, invColor, hvalue, hvalue, hvalue, hvalue]
  exact ⟨rfl, rfl⟩

/-! ### Blocks of one sample -/

theorem angleF_single : angleF 0 0 1 = F64.zero := by decide +kernel

theorem angleC_single : angleC 0 0 1 = F64.zero := by decide +kernel

theorem cos64_zero : cos64 F64.zero = F64.one := if_pos rfl

theorem sin64_zero : sin64 F64.zero = F64.zero := if_pos rfl

section
variable {u : Int}

theorem representable_of_small (hu : |u| < 2 ^ 53) : F64.Representable (u : ℚ) := (F64.stands_ofInt hu).representable

/-- The one coefficient of a block of one sample is the sample (41_transform.md R180 corner case). -/
theorem blockCoef_single (bs : Basis) (hu : |u| < 2 ^ 53) :
    F64.Stands u (blockCoef bs [u] 0 1).re ∧ F64.Stands 0 (blockCoef bs [u] 0 1).im := by
  have hsample := F64.stands_ofInt hu
  have hone := hsample.mul F64.stands_one (by rw [mul_one]; exact hsample.representable)
  have hzero := hsample.mul F64.stands_zero (by rw [mul_zero]; exact F64.stands_zero.representable)
  have hre := F64.stands_zero.add hone (by rw [mul_one, zero_add]; exact hsample.representable)
  have him := F64.stands_zero.add hzero (by rw [mul_zero, zero_add]; exact F64.stands_zero.representable)
  rw [mul_one, zero_add] at hre
  rw [mul_zero, zero_add] at him
  cases bs with
  | fourier =>
    rw [blockCoef, fourierCoef_eq]
    simp only [weightedSum, List.zipIdx_cons, List.zipIdx_nil, List.foldl_cons, List.foldl_nil, angleF_single, cos64_zero,
      sin64_zero]
    exact ⟨hre, him⟩
  | cosine =>
    rw [blockCoef, cosineCoef_eq]
    simp only [weightedSum, List.zipIdx_cons, List.zipIdx_nil, List.foldl_cons, List.foldl_nil, angleC_single, cos64_zero]
    exact ⟨hre, F64.stands_zero⟩

/-- The inverse of a block of one coefficient whose index is kept is the coefficient (R192, R193). -/
theorem blockInv_single (bs : Basis) {keep : Nat → Bool} (hkeep : keep 0 = true) {X : Coef} (hu : |u| < 2 ^ 53)
    (hre : F64.Stands u X.re) (him : F64.Stands 0 X.im) : F64.Stands u (blockInv bs keep [X] 0 1) := by
  have hrep := representable_of_small hu
  have hden := F64.stands_ofNat (n := 1) (by norm_num)
  have divOne {y : F64} (hy : F64.Stands u y) : F64.Stands u (F64.div y (F64.ofNat 1)) := by
    have h := hy.div hden (by norm_num) (by rwa [Nat.cast_one, div_one])
    rwa [Nat.cast_one, div_one] at h
  cases bs with
  | fourier =>
    have hcos := hre.mul F64.stands_one (by rwa [mul_one])
    have hsin := him.mul F64.stands_zero (by rw [mul_zero]; exact F64.stands_zero.representable)
    have hterm := hcos.add hsin (by rwa [mul_one, mul_zero, add_zero])
    have hsum := F64.stands_zero.add hterm (by rwa [mul_one, mul_zero, add_zero, zero_add])
    rw [mul_one, mul_zero, add_zero, zero_add] at hsum
    rw [blockInv, fourierInv]
    simp only [List.zipIdx_cons, List.zipIdx_nil, List.foldl_cons, List.foldl_nil, hkeep, if_true, angleF_single,
      cos64_zero, sin64_zero]
    exact divOne hsum
  | cosine =>
    have hhalf := hre.mul F64.stands_half (by rw [mul_one_div]; exact F64.representable_half hu)
    have hsum := F64.stands_zero.add hhalf (by rw [zero_add, mul_one_div]; exact F64.representable_half hu)
    have hback : (0 + (u : ℚ) * (1 / 2)) * 2 = u := by ring
    have hdouble := hsum.mul F64.stands_two (by rwa [hback])
    rw [hback] at hdouble
    rw [blockInv, cosineInv]
    simp only [List.zipIdx_cons, List.zipIdx_nil, List.foldl_cons, List.foldl_nil, hkeep, if_true, cosineTerm]
    exact divOne hdouble

end

theorem pack_channelOf (c : Color) : pack (channelOf .red c) (channelOf .green c) (channelOf .blue c) = c := by
  unfold pack channelOf
  rw [BitVec.extractLsb'_append_extractLsb'_eq_extractLsb' (by rfl),
    BitVec.extractLsb'_append_extractLsb'_eq_extractLsb' (by rfl)]
  exact BitVec.extractLsb'_eq_self

theorem clamp8_toNat (b : BitVec 8) : clamp8 (b.toNat : Int) = b := by
  have hlt := b.isLt
  have hclamp : clamp (b.toNat : Int) 0 255 = b.toNat := by unfold clamp; omega
  rw [clamp8, hclamp, BitVec.ofInt_natCast, BitVec.ofNat_toNat, BitVec.setWidth_eq]

@[simp] theorem lineCount_fwdPass (ax ax' : Axis) (bs : Basis) (s : State) :
    lineCount (fwdPass ax bs s) ax' = lineCount s ax' := by
  cases ax <;> cases ax' <;> rfl

@[simp] theorem lineLength_fwdPass (ax ax' : Axis) (bs : Basis) (s : State) :
    lineLength (fwdPass ax bs s) ax' = lineLength s ax' := by
  cases ax <;> cases ax' <;> rfl

theorem keepIndex_fwdPass (ax : Axis) (bs : Basis) (s : State) (i : Nat) :
    keepIndex (fwdPass ax bs s) i = keepIndex s i := by
  cases ax <;> rfl

theorem coefN_fwdPass (ax : Axis) (bs : Basis) (s : State) : coefN (fwdPass ax bs s) ax = s.regs.ftN.toNat := by
  cases ax <;> rfl

theorem coefBasis_fwdPass (ax : Axis) (bs : Basis) (s : State) : coefBasis ax (fwdPass ax bs s).regs.status = bs := by
  cases ax <;> rfl

theorem coefValid_fwdPass (ax : Axis) (bs : Basis) (s : State) : coefValid ax (fwdPass ax bs s).regs.status = true := by
  cases ax <;> rfl

theorem shapeInBounds_fwdPass {s : State} (ax : Axis) (bs : Basis) (h : ShapeInBounds s) :
    ShapeInBounds (fwdPass ax bs s) := by
  cases ax <;> exact h

/-- After a FWD of blocks of one sample, INV reconstructs the channel's value. -/
theorem invSample_fwdPass_single {s : State} {ax : Axis} {bs : Basis} (hshape : ShapeInBounds s)
    (hN : s.regs.ftN.toNat = 1) (hkeep : keepIndex s 0 = true) {n p : Nat} (hn : n < lineCount s ax)
    (hp : p < lineLength s ax) (c : Channel) :
    invSample (fwdPass ax bs s) ax n p c =
      (channelOf c (readFull s (lineCell ax n p).1 (lineCell ax n p).2)).toNat := by
  have hbyte := (channelOf c (readFull s (lineCell ax n p).1 (lineCell ax n p).2)).isLt
  have hcoefN : coefN (fwdPass ax bs s) ax = 1 := (coefN_fwdPass ax bs s).trans hN
  have hcoef : readCoef (fwdPass ax bs s) ax n p c = blockCoef bs [centredSample s ax n p c] 0 1 := by
    have h := readCoef_fwdPass (bs := bs) (c := c) hshape hn (b := p) (i := 0) (by rwa [hN, Nat.div_one]) (by omega)
    rw [hN, Nat.mul_one, Nat.add_zero] at h
    rw [h]
    simp [blockSamples]
  have hu : |centredSample s ax n p c| < 2 ^ 53 := by
    rw [abs_lt, centredSample]
    omega
  obtain ⟨hre, him⟩ := blockCoef_single bs hu
  rw [invSample_of_lt c (by rwa [hcoefN, Nat.div_one, Nat.mul_one, lineLength_fwdPass])]
  refine trunc_add_c128 (by omega) ?_
  have hblock : blockCoefs (fwdPass ax bs s) ax n (p / coefN (fwdPass ax bs s) ax) (coefN (fwdPass ax bs s) ax) c =
      [blockCoef bs [centredSample s ax n p c] 0 1] := by
    simp [blockCoefs, hcoefN, hcoef]
  have hvalue := blockInv_single bs (keep := keepIndex (fwdPass ax bs s)) (by rwa [keepIndex_fwdPass]) hu hre him
  rw [hblock, hcoefN, Nat.mod_one, coefBasis_fwdPass]
  simpa [centredSample] using hvalue

/-- Settles O40: the one coefficient is the centred sample, whose inverse with 128 added back is the channel. -/
theorem singleSampleRoundTrip : Obligations.SingleSampleRoundTrip := by
  unfold Obligations.SingleSampleRoundTrip
  intro s t u ax bs hshape hgrid hftN hkeep hfwd hinv sec l hs hl
  have hN : s.regs.ftN.toNat = 1 := by rw [hftN]; rfl
  have hfwd' := exec_fwd_of_ready (ax := ax) (bs := bs) hgrid hN.ge (hN ▸ Config.nMax_bounds.1)
  obtain rfl := Host.Outcome.next.inj (hfwd'.symm.trans hfwd)
  obtain rfl := Host.Outcome.next.inj ((exec_inv_of_valid (coefValid_fwdPass ax bs s)).symm.trans hinv)
  obtain ⟨n, p, hn, hp, hcell⟩ := exists_lineCell ax hs hl
  have hshape' := shapeInBounds_fwdPass ax bs hshape
  have hn' : n < lineCount (fwdPass ax bs s) ax := by rwa [lineCount_fwdPass]
  have hp' : p < lineLength (fwdPass ax bs s) ax := by rwa [lineLength_fwdPass]
  have hvalue (c : Channel) := invSample_fwdPass_single (bs := bs) hshape hN hkeep hn hp c
  have hread := readInv_invPass hshape' hn' hp'
  have hwide := readWide_invPass hshape' hn' hp'
  simp only [hcell, invColor, hvalue] at hread hwide
  refine ⟨?_, fun c => ?_⟩
  · rw [hread, clamp8_toNat, clamp8_toNat, clamp8_toNat, pack_channelOf]
  · rw [hwide, BitVec.ofInt_natCast, BitVec.ofNat_toNat]

end Sys2Proof.Machine
end

section
/-! SUPPORT. What CBUF and LTAB read as after a line is appended, and after the first lines of HENC_ALL are
(42_codec.md R221, R223). -/

namespace Sys2Proof.Machine

/-! ### One line appended -/

theorem mem_bytesAt_iff {o k : Nat} {bytes : List Byte} {b : Byte} :
    (k, b) ∈ bytesAt o bytes ↔ ∃ q, bytes[q]? = some b ∧ k = o + q := by
  simp only [bytesAt, List.mem_map, Prod.exists, List.mk_mem_zipIdx_iff_getElem?, Prod.mk.injEq]
  constructor
  · rintro ⟨_, q, hb, rfl, rfl⟩
    exact ⟨q, hb, rfl⟩
  · rintro ⟨q, hb, rfl⟩
    exact ⟨b, q, hb, rfl, rfl⟩

@[simp] theorem length_codecLine (s : State) (sr : Source) (ax : Axis) (n : Nat) :
    (codecLine s sr ax n).length = lineLength s ax := by simp [codecLine]

section
variable {x : List Color} {ax : Axis} {sr : Source} {n q e : Nat} {s : State}

theorem readCbuf_lineAppended (hq : q < (encodeLine x).bytes.length) :
    some (readCbuf (lineAppended x ax sr n s) (s.regs.clen.toNat + q)) = (encodeLine x).bytes[q]? := by
  have hb : (encodeLine x).bytes[q]? = some (encodeLine x).bytes[q] := List.getElem?_eq_getElem hq
  rw [hb]
  refine congrArg some (readCbuf_writeCbuf_of_mem s (mem_bytesAt_iff.2 ⟨q, hb, rfl⟩) fun w hw => ?_)
  obtain ⟨q', hb', hk⟩ := mem_bytesAt_iff.1 hw
  obtain rfl := Nat.add_left_cancel hk
  exact Option.some.inj (hb'.symm.trans hb)

theorem readCbuf_lineAppended_of_outside
    (h : q < s.regs.clen.toNat ∨ s.regs.clen.toNat + (encodeLine x).bytes.length ≤ q) :
    readCbuf (lineAppended x ax sr n s) q = readCbuf s q := by
  refine readCbuf_writeCbuf_of_notMem s ?_
  rintro ⟨k, b⟩ hc rfl
  obtain ⟨i, hb, rfl⟩ := mem_bytesAt_iff.1 hc
  have := (List.getElem?_eq_some_iff.1 hb).1
  simp only at h
  omega

theorem readLtab_lineAppended (h : e = s.regs.lcnt.toNat) :
    readLtab (lineAppended x ax sr n s) e = lineEntry s (encodeLine x) ax sr n :=
  cellOr_writeAll_of_mem _ _ _ (by simp [h]) (by simp)

theorem readLtab_lineAppended_of_ne (h : e ≠ s.regs.lcnt.toNat) :
    readLtab (lineAppended x ax sr n s) e = readLtab s e :=
  cellOr_writeAll_of_notMem _ _ _ (by simpa using h.symm)

end

/-! ### The lines of HENC_ALL, one after another -/

/-- t is s after the buffers of its first m lines are appended to an empty stream (R223). -/
structure Streamed (s : State) (sr : Source) (ax : Axis) (m : Nat) (t : State) : Prop where
  regs : t.regs = { s.regs with
    lcnt := BitVec.ofNat 16 m
    clen := BitVec.ofNat 32 (lineStart s sr ax m)
    status := { s.regs.status with
      trunc8 := s.regs.status.trunc8 || (decide (0 < m) && decide (256 < lineLength s ax)) } }
  bytes : ∀ n q, n < m → q < lineBytes s sr ax n →
    some (readCbuf t (lineStart s sr ax n + q)) = (encodeLine (codecLine s sr ax n)).bytes[q]?
  bytesAfter : ∀ q, lineStart s sr ax m ≤ q → readCbuf t q = readCbuf s q
  entries : ∀ n, n < m → readLtab t n =
    { offset := BitVec.ofNat 32 (lineStart s sr ax n), length := BitVec.ofNat 32 (lineBytes s sr ax n)
      leaves := BitVec.ofNat 16 (encodeLine (codecLine s sr ax n)).leaves
      runs := BitVec.ofNat 16 (encodeLine (codecLine s sr ax n)).runs
      sr := sr, ax := ax, line := BitVec.ofNat 16 n }
  entriesAfter : ∀ e, m ≤ e → readLtab t e = readLtab s e
  keeps : KeepsAllBut [.cbuf, .ltab] s t
  port : KeepsPort s t

section
variable {s t : State} {sr : Source} {ax : Axis} {m : Nat}

theorem lineStart_mono (s : State) (sr : Source) (ax : Axis) : Monotone (lineStart s sr ax) :=
  monotone_nat_of_le_succ fun _ => Nat.le_add_right ..

theorem streamed_clearStream (s : State) (sr : Source) (ax : Axis) : Streamed s sr ax 0 (clearStream s) where
  regs := by simp [clearStream, mapRegs, lineStart]
  bytes n q hn := absurd hn (Nat.not_lt_zero n)
  bytesAfter _ _ := rfl
  entries n hn := absurd hn (Nat.not_lt_zero n)
  entriesAfter _ _ := rfl
  keeps := (keepsAllBut_clearStream s).of_nil
  port := ⟨rfl, rfl, rfl⟩

/-- The source grid is not written, so its lines are those of the start (R210). -/
theorem Streamed.codecLine_eq (h : Streamed s sr ax m t) (n : Nat) : codecLine t sr ax n = codecLine s sr ax n := by
  have hlen : lineLength t ax = lineLength s ax := by
    cases ax <;> simp [lineLength, h.regs]
  have hfull : ∀ sec l, readFull t sec l = readFull s sec l := h.keeps .full (by decide)
  have hinv : ∀ sec l, readInv t sec l = readInv s sec l := h.keeps .inv (by decide)
  unfold codecLine
  cases sr <;> simp only [hlen, hfull, hinv]

theorem lineCount_le_ltabMax (hshape : ShapeInBounds s) : lineCount s ax ≤ Config.ltabMax := by
  cases ax
  · exact hshape.1.trans Config.ltabMax_bounds.1
  · exact hshape.2.trans Config.ltabMax_bounds.2.1

theorem Streamed.clen_toNat (h : Streamed s sr ax m t) (hfit : lineStart s sr ax m ≤ Config.cbufBytes) :
    t.regs.clen.toNat = lineStart s sr ax m := by
  have := Config.cbufBytes_bounds.2.1
  rw [h.regs]
  exact Nat.mod_eq_of_lt (by omega)

theorem Streamed.lcnt_toNat (h : Streamed s sr ax m t) (hm : m ≤ Config.ltabMax) : t.regs.lcnt.toNat = m := by
  have := Config.ltabMax_bounds.2.2
  rw [h.regs]
  exact Nat.mod_eq_of_lt (by omega)

/-- The next line goes behind the ones before it. -/
theorem Streamed.append (h : Streamed s sr ax m t) (hm : m < Config.ltabMax)
    (hfit : lineStart s sr ax m ≤ Config.cbufBytes) :
    Streamed s sr ax (m + 1) (lineAppended (codecLine t sr ax m) ax sr m t) := by
  have hclen := h.clen_toNat hfit
  have hlcnt := h.lcnt_toNat hm.le
  have hline := h.codecLine_eq m
  refine ⟨?regs, fun n q hn hq => ?bytes, fun q hq => ?bytesAfter, fun n hn => ?entries, fun e he => ?entriesAfter,
    h.keeps.trans (keepsAllBut_lineAppended _ ax sr m t), h.port⟩
  case regs =>
    rw [lineAppended_regs, hline, h.regs]
    simp only [Regs.mk.injEq, Status.mk.injEq, and_true, true_and, length_codecLine]
    refine ⟨?_, (BitVec.ofNat_add ..).symm, (BitVec.ofNat_add ..).symm⟩
    cases m <;> simp
  case bytes =>
    rw [hline]
    rcases Nat.lt_succ_iff_lt_or_eq.1 hn with hlt | rfl
    · rw [readCbuf_lineAppended_of_outside, h.bytes n q hlt hq]
      have : lineStart s sr ax (n + 1) ≤ lineStart s sr ax m := lineStart_mono s sr ax hlt
      rw [lineStart] at this
      omega
    · rw [← hclen]
      exact readCbuf_lineAppended hq
  case bytesAfter =>
    rw [lineStart] at hq
    rw [hline, readCbuf_lineAppended_of_outside (.inr (by rw [hclen]; exact hq)), h.bytesAfter q (by omega)]
  case entries =>
    rw [hline]
    rcases Nat.lt_succ_iff_lt_or_eq.1 hn with hlt | rfl
    · rw [readLtab_lineAppended_of_ne (by omega), h.entries n hlt]
    · rw [readLtab_lineAppended hlcnt.symm, lineEntry, h.regs]
      rfl
  case entriesAfter =>
    rw [readLtab_lineAppended_of_ne (by omega), h.entriesAfter e (by omega)]

theorem hencLoop_cons_of_ok {n : Nat} {ns : List Nat} {u : State}
    (h : appendLine (codecLine s sr ax n) ax sr n s = .ok u) :
    hencLoop ax sr (n :: ns) s = hencLoop ax sr ns u := by
  rw [hencLoop, h]

theorem hencLoop_cons_of_overflow {n : Nat} {ns : List Nat}
    (h : appendLine (codecLine s sr ax n) ax sr n s = .error .cbufOverflow) :
    hencLoop ax sr (n :: ns) s = raise .cbufOverflow (clearStream s) := by
  rw [hencLoop, h]

/-- Where the loop of HENC_ALL ends: after the last line, or at the first one that does not fit (R223). -/
theorem exists_streamed_hencLoop {k : Nat} (hshape : ShapeInBounds s) (hm : m + k = lineCount s ax)
    (h : Streamed s sr ax m t) (hfit : lineStart s sr ax m ≤ Config.cbufBytes) :
    ∃ m' t', Streamed s sr ax m' t' ∧ lineStart s sr ax m' ≤ Config.cbufBytes ∧
      ((m' = lineCount s ax ∧ hencLoop ax sr (List.range' m k) t = t') ∨
        (m' < lineCount s ax ∧ Config.cbufBytes < lineStart s sr ax (m' + 1) ∧
          hencLoop ax sr (List.range' m k) t = raise .cbufOverflow (clearStream t'))) := by
  induction k generalizing m t with
  | zero => exact ⟨m, t, h, hfit, .inl ⟨hm, rfl⟩⟩
  | succ k ih =>
    have hfree : m < Config.ltabMax := by
      have := lineCount_le_ltabMax (ax := ax) hshape
      omega
    have hline := h.codecLine_eq m
    rw [List.range'_succ]
    rcases Nat.lt_or_ge Config.cbufBytes (lineStart s sr ax (m + 1)) with hover | hroom
    · refine ⟨m, t, h, hfit, .inr ⟨by omega, hover, hencLoop_cons_of_overflow (appendLine_of_no_room ?_ ?_)⟩⟩
      · rw [h.lcnt_toNat hfree.le]
        omega
      · rw [h.clen_toNat hfit, hline]
        exact hover
    · have happ : appendLine (codecLine t sr ax m) ax sr m t = .ok (lineAppended (codecLine t sr ax m) ax sr m t) := by
        refine appendLine_eq_ok_iff.2 ⟨?_, ?_, rfl⟩
        · rw [h.lcnt_toNat hfree.le]
          omega
        · rw [h.clen_toNat hfit, hline]
          exact hroom
      rw [hencLoop_cons_of_ok happ]
      exact ih (by omega) (h.append hfree hfit) hroom

theorem exec_hencAll_of_valid (hshape : ShapeInBounds s) (hv : SourceValid sr s) :
    ∃ m t, Streamed s sr ax m t ∧ lineStart s sr ax m ≤ Config.cbufBytes ∧
      ((m = lineCount s ax ∧ exec (.hencAll ax sr) s = .next t) ∨
        (m < lineCount s ax ∧ Config.cbufBytes < lineStart s sr ax (m + 1) ∧
          exec (.hencAll ax sr) s = .next (raise .cbufOverflow (clearStream t)))) := by
  have hexec : exec (.hencAll ax sr) s = .next (hencLoop ax sr (List.range (lineCount s ax)) (clearStream s)) := by
    change execHencAll ax sr s = _
    rw [execHencAll, (checkHenc_eq_none_iff sr s).2 hv]
  rw [hexec, List.range_eq_range']
  obtain ⟨m, t, hs, hfit, hend⟩ := exists_streamed_hencLoop hshape (Nat.zero_add _) (streamed_clearStream s sr ax)
    (Nat.zero_le _)
  exact ⟨m, t, hs, hfit, hend.imp (fun ⟨hm, he⟩ => ⟨hm, congrArg _ he⟩)
    fun ⟨hm, hover, he⟩ => ⟨hm, hover, congrArg _ he⟩⟩

end

end Sys2Proof.Machine
end

section
/-! PROOFS. The statements about completed encode commands (42_codec.md R219 to R223). -/

namespace Sys2Proof.Machine

/-- Settles O42: the buffer and the entry read back as written, and CLEN does not wrap. -/
theorem hencLineCompletes : Obligations.HencLineCompletes := by
  unfold Obligations.HencLineCompletes
  intro s ax sr idx hv hidx hfree hroom
  have hexec : exec (.hencLine ax sr idx) s = .next (lineAppended (codecLine s sr ax idx) ax sr idx s) := by
    change execHencLine ax sr idx s = _
    rw [execHencLine, (checkHenc_eq_none_iff sr s).2 hv]
    simp only [Nat.not_le.2 hidx, if_false, appendLine_eq_ok_iff.2 ⟨hfree, hroom, rfl⟩]
  refine ⟨_, hexec, ?regs, fun q hq => readCbuf_lineAppended hq, fun q hq => readCbuf_lineAppended_of_outside hq,
    readLtab_lineAppended rfl, fun e he => readLtab_lineAppended_of_ne he,
    (keepsAllBut_lineAppended _ ax sr idx s).keepsMems (by decide), rfl, rfl, rfl⟩
  case regs =>
    have hclen : s.regs.clen + BitVec.ofNat 32 (lineBytes s sr ax idx) =
        BitVec.ofNat 32 (s.regs.clen.toNat + lineBytes s sr ax idx) := by
      rw [BitVec.ofNat_add, BitVec.ofNat_toNat, BitVec.setWidth_eq]
    rw [lineAppended_regs, length_codecLine, ← hclen]
    rfl

/-- Settles O44: when all lines fit, the loop ends after the last one. -/
theorem hencAllWritesTheStream : Obligations.HencAllWritesTheStream := by
  unfold Obligations.HencAllWritesTheStream
  intro s ax sr hshape hv hfit
  obtain ⟨m, t, hs, -, ⟨rfl, hexec⟩ | ⟨hm, hover, -⟩⟩ := exec_hencAll_of_valid (ax := ax) hshape hv
  · exact ⟨t, hexec, hs.regs, hs.bytes, hs.bytesAfter, hs.entries, hs.entriesAfter, hs.keeps.keepsMems (by decide),
      hs.port⟩
  · exact absurd ((lineStart_mono s sr ax hm).trans hfit) (Nat.not_le.2 hover)

/-- Settles O45: when not all lines fit, the loop ends at the first that does not, and the stream is emptied. -/
theorem hencAllOverflowTruncates : Obligations.HencAllOverflowTruncates := by
  unfold Obligations.HencAllOverflowTruncates
  intro s ax sr hshape hv hover
  obtain ⟨m, t, hs, hfit, ⟨rfl, -⟩ | ⟨hm, hnext, hexec⟩⟩ := exec_hencAll_of_valid (ax := ax) hshape hv
  · omega
  · refine ⟨m, _, hm, hfit, hnext, hexec, ?regs, hs.bytes, hs.bytesAfter, hs.entries, hs.entriesAfter,
      (hs.keeps.trans (.of_mems_eq rfl rfl)).keepsMems (by decide), hs.port⟩
    rw [raise_regs, clearStream, mapRegs, hs.regs]
    rfl

end Sys2Proof.Machine
end

section
/-! SUPPORT. What a line that reads without error is made of: as many symbols as starts, and runs that cover the line
(42_codec.md R234 to R236). -/

namespace Sys2Proof.Machine

/-- A reader that succeeds has succeeded in each of its parts. -/
theorem except_bind_eq_ok_iff {α β : Type} {x : Except ErrCode α} {f : α → Except ErrCode β} {b : β} :
    (x >>= f) = .ok b ↔ ∃ a, x = .ok a ∧ f a = .ok b := by
  cases x with
  | error e =>
    rw [except_error_bind]
    exact ⟨fun h => (nomatch h), fun ⟨a, h, _⟩ => (nomatch h)⟩
  | ok a =>
    rw [except_ok_bind]
    exact ⟨fun h => ⟨a, rfl, h⟩, fun ⟨_, ha, h⟩ => Except.ok.inj ha ▸ h⟩

section
variable {rd : Nat → Except ErrCode Byte} {n : Nat}

theorem length_of_readSymbols {o t : Nat} {root : Tree} {cs : List Color × Nat}
    (h : readSymbols rd o root n t = .ok cs) : cs.1.length = n := by
  induction n generalizing t cs with
  | zero =>
    cases h
    rfl
  | succ n ih =>
    obtain ⟨c, -, h⟩ := except_bind_eq_ok_iff.1 h
    obtain ⟨cs', hcs, h⟩ := except_bind_eq_ok_iff.1 h
    cases h
    exact congrArg (· + 1) (ih hcs)

theorem length_of_readStarts {o : Nat} {st : List Nat} (h : readStarts rd o n = .ok st) : st.length = n := by
  induction n generalizing o st with
  | zero =>
    cases h
    rfl
  | succ n ih =>
    obtain ⟨b, -, h⟩ := except_bind_eq_ok_iff.1 h
    obtain ⟨st', hst, h⟩ := except_bind_eq_ok_iff.1 h
    cases h
    exact congrArg (· + 1) (ih hst)

/-- Every start byte is read. -/
theorem exists_ok_of_readStarts {o i : Nat} {st : List Nat} (h : readStarts rd o n = .ok st) (hi : i < n) :
    ∃ b, rd (o + i) = .ok b := by
  induction n generalizing o i st with
  | zero => exact absurd hi (Nat.not_lt_zero i)
  | succ n ih =>
    obtain ⟨b, hb, h⟩ := except_bind_eq_ok_iff.1 h
    obtain ⟨st', hst, -⟩ := except_bind_eq_ok_iff.1 h
    cases i with
    | zero => exact ⟨b, hb⟩
    | succ i =>
      obtain ⟨b', hb'⟩ := ih hst (Nat.lt_of_succ_lt_succ hi)
      exact ⟨b', by rw [← hb']; congr 1; omega⟩

end

/-- The runs of rising starts write each place from the first start to the line's end once (R236). -/
theorem map_fst_runCells {cs : List Color} {a m : Nat} {st : List Nat} (hrise : risingStarts (a :: st) = true)
    (hlast : (a :: st).getLast?.getD m < m) (hlen : cs.length = (a :: st).length) :
    a < m ∧ (runCells cs (a :: st) m).map Prod.fst = List.range' a (m - a) := by
  induction st generalizing a cs with
  | nil =>
    obtain ⟨c, rfl⟩ := List.length_eq_one_iff.1 hlen
    exact ⟨hlast, by simp [runCells, Function.comp_def]⟩
  | cons b st ih =>
    obtain ⟨c, cs, rfl⟩ := List.exists_cons_of_length_eq_add_one hlen
    rw [risingStarts, Bool.and_eq_true, decide_eq_true_eq] at hrise
    obtain ⟨hab, hrise⟩ := hrise
    obtain ⟨hbm, hrest⟩ := ih hrise (by simpa using hlast) (Nat.succ.inj hlen)
    refine ⟨hab.trans hbm, ?_⟩
    have hjoin := List.range'_append_1 (s := a) (m := b - a) (n := m - b)
    rw [Nat.add_sub_cancel' hab.le, Nat.add_comm, Nat.sub_add_sub_cancel hbm.le hab.le] at hjoin
    simp [runCells, hrest, Function.comp_def, hjoin]

/-- The cells of a line that reads: one for each of its places, in order. -/
theorem map_fst_cells_of_readLine {rd : Nat → Except ErrCode Byte} {o r m : Nat} {d : Decoded}
    (h : readLine rd o r m = .ok d) : d.cells.map Prod.fst = List.range m := by
  obtain ⟨t, -, h⟩ := except_bind_eq_ok_iff.1 h
  obtain ⟨cs, hcs, h⟩ := except_bind_eq_ok_iff.1 h
  obtain ⟨st, hst, h⟩ := except_bind_eq_ok_iff.1 h
  split at h
  case isFalse => cases h
  case isTrue hok =>
    cases h
    simp only [startsOk, Bool.and_eq_true, decide_eq_true_eq] at hok
    obtain ⟨⟨hhead, hrise⟩, hlast⟩ := hok
    obtain ⟨st, rfl⟩ := List.head?_eq_some_iff.1 hhead
    have hlen := (length_of_readSymbols hcs).trans (length_of_readStarts hst).symm
    rw [(map_fst_runCells hrise hlast hlen).2, Nat.sub_zero, List.range_eq_range']

/-- A line ends behind the last byte that was read (R235, R236). -/
theorem decEnd_le_clen_of_readLine {s : State} {o r m : Nat} {d : Decoded} (hr : 1 ≤ r)
    (h : readLine (decByte s) o r m = .ok d) : d.decEnd ≤ s.regs.clen.toNat := by
  obtain ⟨t, -, h⟩ := except_bind_eq_ok_iff.1 h
  obtain ⟨cs, -, h⟩ := except_bind_eq_ok_iff.1 h
  obtain ⟨st, hst, h⟩ := except_bind_eq_ok_iff.1 h
  split at h
  case isFalse => cases h
  case isTrue =>
    cases h
    obtain ⟨b, hb⟩ := exists_ok_of_readStarts hst (i := r - 1) (by omega)
    by_contra hover
    rw [decByte_of_le (by simp only at hover; omega)] at hb
    cases hb

end Sys2Proof.Machine
end

section
/-! PROOFS. The statement about a completed HDEC command (42_codec.md R236). -/

namespace Sys2Proof.Machine

/-- Settles O47: the cells of a line that reads are its places, each once. -/
theorem hdecCompletes : Obligations.HdecCompletes := by
  unfold Obligations.HdecCompletes
  intro s d hready hread
  have ⟨_, _, hruns, _⟩ := hready
  have hplaces := map_fst_cells_of_readLine hread
  have honce {p : Nat} {c c' : Color} (h : (p, c) ∈ d.cells) (h' : (p, c') ∈ d.cells) : c' = c := by
    have hnodup : (d.cells.map Prod.fst).Nodup := hplaces ▸ List.nodup_range
    exact congrArg Prod.snd (List.inj_on_of_nodup_map hnodup h' h rfl)
  refine ⟨_, exec_hdec_of_readLine hready hread, rfl, decEnd_le_clen_of_readLine hruns hread, fun p hp => ?written,
    fun p hp => ?kept, (keepsAllBut_decoded d s).keepsMems (by decide), rfl, rfl, rfl⟩
  case written =>
    obtain ⟨⟨q, c⟩, hc, rfl⟩ := List.mem_map.1 (hplaces.symm ▸ List.mem_range.2 hp)
    rwa [readDbuf_writeDbuf_of_mem s hc fun w hw => honce hc hw]
  case kept =>
    refine readDbuf_writeDbuf_of_notMem s ?_
    rintro c hc rfl
    have := List.mem_range.1 (hplaces ▸ List.mem_map_of_mem hc)
    omega

end Sys2Proof.Machine
end

section
/-! SUPPORT. The invariant of the block, operation by operation: what each operation over the state keeps of the registers'
relations, and which cells each write of a memory may name (10_state.md R42 to R81). -/

namespace Sys2Proof.Machine

/-! ### The registers -/

section
variable {r : Regs} {s : State}

theorem errCodeValue_bounds (e : ErrCode) : (errCodeValue e).toNat ≤ 13 ∧ errCodeValue e ≠ 0 := by
  cases e <;> decide

theorem regsInv_raiseFor (w : Word) (e : ErrCode) (h : RegsInv s.regs) : RegsInv (raiseFor w e s).regs := by
  refine { h with errCode := ?_, errCmd := nofun }
  rw [raiseFor_regs]
  cases herr : s.regs.status.err with
  | true => exact ⟨h.errCode.1, iff_of_true rfl (h.errCode.2.1 herr)⟩
  | false => exact ⟨(errCodeValue_bounds e).1, iff_of_true rfl (errCodeValue_bounds e).2⟩

theorem regsInv_accept (w : Word) (h : RegsInv s.regs) : RegsInv (accept w s).regs :=
  { h with handshake := fun _ => ⟨rfl, rfl⟩ }

theorem regsInv_complete (h : RegsInv s.regs) : RegsInv (complete s).regs :=
  { h with handshake := nofun }

theorem regsInv_setBusErr (h : RegsInv s.regs) : RegsInv (setBusErr s).regs :=
  { h with handshake := h.handshake }

theorem regsInv_setHaz (h : RegsInv s.regs) : RegsInv (setHaz s).regs :=
  { h with handshake := h.handshake }

theorem regsInv_acknowledge (v : Word) (h : RegsInv s.regs) : RegsInv (acknowledge v s).regs := by
  refine { h with handshake := fun hb => ⟨?done, (h.handshake hb).2⟩, errCode := ?code, errCmd := ?cmd }
  case done =>
    have hdone : s.regs.status.done = false := (h.handshake hb).1
    simp [statusAfterW1C, hdone]
  case code =>
    simp only [acknowledge_regs, statusAfterW1C]
    cases v.getLsbD 2 with
    | true => simp
    | false => simpa using h.errCode
  case cmd =>
    simp only [acknowledge_regs, statusAfterW1C]
    cases v.getLsbD 2 with
    | true => exact fun _ => rfl
    | false => simpa using h.errCmd

/-- R165, R170: a legal shape is latched, and nothing derived from an earlier grid stays valid. -/
theorem regsInv_latchGrid {S L c : BitVec 16} (h : RegsInv s.regs) (hS : 1 ≤ S.toNat ∧ S.toNat ≤ Config.sMax)
    (hL : 1 ≤ L.toNat ∧ L.toNat ≤ Config.lMax) (hc : c.toNat ≤ S.toNat) : RegsInv (latchGrid S L c s).regs :=
  { h with
    shape := ⟨hS.2, hL.2⟩
    grid := fun _ => ⟨hS.1, hL.1⟩
    derived := fun _ => rfl
    coefRad := nofun
    coefAng := nofun
    converted := hc }

theorem regsInv_latchFwd (ax : Axis) (bs : Basis) (h : RegsInv s.regs) (hgrid : s.regs.status.gridValid = true)
    (hN : 1 ≤ s.regs.ftN.toNat ∧ s.regs.ftN.toNat ≤ Config.nMax) : RegsInv (latchFwd ax bs s).regs := by
  cases ax with
  | rad => exact { h with derived := fun _ => hgrid, coefRad := fun _ => hN }
  | ang => exact { h with derived := fun _ => hgrid, coefAng := fun _ => hN }

theorem regsInv_latchInv (ax : Axis) (len : Nat) (h : RegsInv s.regs) (hgrid : s.regs.status.gridValid = true) :
    RegsInv (latchInv ax len s).regs :=
  { h with derived := fun _ => hgrid }

theorem gridValid_of_coefValid {ax : Axis} (h : RegsInv s.regs) (hv : coefValid ax s.regs.status = true) :
    s.regs.status.gridValid = true := by
  refine h.derived ?_
  cases ax with
  | rad => simp [show s.regs.status.coefValidRad = true from hv]
  | ang => simp [show s.regs.status.coefValidAng = true from hv]

theorem regsInv_clearStream (h : RegsInv s.regs) : RegsInv (clearStream s).regs :=
  { h with stream := ⟨Nat.zero_le _, Nat.zero_le _⟩ }

/-- R221: with room in CBUF and LTAB, CLEN and LCNT stay inside them. -/
theorem regsInv_lineAppended {x : List Color} {ax : Axis} {sr : Source} {n : Nat} (h : RegsInv s.regs)
    (hfree : s.regs.lcnt.toNat ≠ Config.ltabMax)
    (hroom : s.regs.clen.toNat + (encodeLine x).bytes.length ≤ Config.cbufBytes) :
    RegsInv (lineAppended x ax sr n s).regs := by
  have hcbuf := Config.cbufBytes_bounds.2.1
  have hltab := Config.ltabMax_bounds.2.2
  have hlcnt := h.stream.2
  refine { h with stream := ⟨?_, ?_⟩ }
  · rw [lineAppended_regs, BitVec.toNat_add, BitVec.toNat_ofNat, Nat.add_mod_mod]
    exact (Nat.mod_le _ _).trans hroom
  · rw [lineAppended_regs, BitVec.toNat_add]
    exact (Nat.mod_le _ _).trans (Nat.lt_of_le_of_ne hlcnt hfree)

theorem regsInv_latchDec {n : Nat} (h : RegsInv s.regs) (hn : n ≤ Config.cbufBytes) : RegsInv (latchDec n s).regs :=
  { h with decEnd := (Nat.mod_le _ _).trans hn }

/-- R55: a written CLEN is inside CBUF; the other configuration registers are in no relation. -/
theorem regsInv_cfgWrite (v : Word) (q : Reg) (h : RegsInv r) : RegsInv (cfgWrite v q r) := by
  have hclen : (legalClen v).toNat ≤ Config.cbufBytes := (Nat.mod_le _ _).trans (Nat.min_le_right _ _)
  cases q with
  | clen => exact { h with stream := ⟨hclen, h.stream.2⟩ }
  | _ => exact { h with stream := h.stream }

/-- Everything a performed register write can do (20_memory.md R113). -/
theorem regWrite_cases (v : Word) (q : Reg) (s : State) :
    regWrite v q s = writeCtrl v s ∨ regWrite v q s = acknowledge v s ∨ regWrite v q s = writeCmd v s ∨
      regWrite v q s = mapRegs (cfgWrite v q) s := by
  cases q with
  | ctrl => exact .inl rfl
  | status => exact .inr (.inl rfl)
  | cmd => exact .inr (.inr (.inl rfl))
  | _ => exact .inr (.inr (.inr rfl))

theorem regsInv_regWrite (v : Word) (q : Reg) (h : RegsInv s.regs) : RegsInv (regWrite v q s).regs := by
  rcases regWrite_cases v q s with hw | hw | hw | hw <;> rw [hw]
  · cases hv : v.getLsbD 3 with
    | true =>
      rw [writeCtrl_of_softReset hv]
      exact regsInv_reset
    | false =>
      rw [writeCtrl_of_enables hv]
      exact { h with stream := h.stream }
  · exact regsInv_acknowledge v h
  · unfold writeCmd
    split
    · exact regsInv_raiseFor v _ h
    · exact regsInv_accept v h
  · exact regsInv_cfgWrite v q h

theorem regWrite_mems (v : Word) (q : Reg) (s : State) : (regWrite v q s).mems = s.mems := by
  rcases regWrite_cases v q s with hw | hw | hw | hw <;> rw [hw]
  · unfold writeCtrl
    split <;> rfl
  · rfl
  · unfold writeCmd
    split <;> rfl
  · rfl

end

/-! ### The memories -/

/-- Writing cells that are allowed keeps a memory canonical and inside its bounds. -/
theorem bounded_writeAll {α : Type} {m : Memory α} {p : Nat → Bool} {cells : List (Nat × α)}
    (h : Memory.wf m = true ∧ cellsIn m p = true) (hcells : ∀ c ∈ cells, p c.1 = true) :
    Memory.wf (Memory.writeAll m cells) = true ∧ cellsIn (Memory.writeAll m cells) p = true :=
  ⟨Memory.writeAll_wf m cells h.1, Memory.writeAll_all m cells p h.2 hcells⟩

theorem imgCell_bounded {y x : Nat} (hx : x < Config.wMax) (hy : y < Config.hMax) :
    (decide (imgCell y x % 2048 < Config.wMax) && decide (imgCell y x / 2048 < Config.hMax)) = true := by
  have := Config.wMax_bounds.2
  have hmod : imgCell y x % 2048 = x := by unfold imgCell; omega
  have hdiv : imgCell y x / 2048 = y := by unfold imgCell; omega
  simp [hmod, hdiv, hx, hy]

theorem gridCell_bounded {sec l : Nat} (h : cellInBounds sec l = true) :
    cellInBounds (gridCell sec l / 256) (gridCell sec l % 256) = true := by
  have hl := (cellInBounds_iff.1 h).2
  have := Config.lMax_bounds.2
  have hmod : gridCell sec l % 256 = l := by unfold gridCell; omega
  have hdiv : gridCell sec l / 256 = sec := by unfold gridCell; omega
  rwa [hmod, hdiv]

theorem wideCell_bounded {sec l : Nat} (c : Channel) (h : cellInBounds sec l = true) :
    (decide (wideCell sec l c % 4 < 3) && cellInBounds (wideCell sec l c / 4 / 256) (wideCell sec l c / 4 % 256)) = true := by
  have hc := channelIndex_lt c
  have hmod : wideCell sec l c % 4 = channelIndex c := by unfold wideCell; omega
  have hdiv : wideCell sec l c / 4 = gridCell sec l := by unfold wideCell gridCell; omega
  rw [hmod, hdiv, gridCell_bounded h, decide_eq_true hc]
  rfl

theorem coefCell_bounded {ax : Axis} {n e : Nat} (c : Channel) (h : coefInBounds ax n e = true) :
    (decide (coefCell ax n e c % 4 < 3) &&
      coefInBounds ax (coefCell ax n e c / 4 / coefStride ax) (coefCell ax n e c / 4 % coefStride ax)) = true := by
  have hc := channelIndex_lt c
  have he : e < coefStride ax := (coefIndex_bounds h).1
  have hmod : coefCell ax n e c % 4 = channelIndex c := by rw [coefCell_eq]; omega
  have hdiv : coefCell ax n e c / 4 = coefStride ax * n + e := by rw [coefCell_eq]; omega
  have hline : (coefStride ax * n + e) / coefStride ax = n := by
    rw [Nat.mul_add_div (by omega), Nat.div_eq_of_lt he, Nat.add_zero]
  have hentry : (coefStride ax * n + e) % coefStride ax = e := by
    rw [Nat.mul_add_mod, Nat.mod_eq_of_lt he]
  rw [hmod, hdiv, hline, hentry, h, decide_eq_true hc]
  rfl

section
variable {s : State}

/-- Cells of a grid of a legal shape are inside the grid memories. -/
theorem cellInBounds_of_shape {sec l : Nat} (h : ShapeInBounds s) (hs : sec < s.regs.gridS.toNat)
    (hl : l < s.regs.gridL.toNat) : cellInBounds sec l = true :=
  cellInBounds_iff.2 ⟨hs.trans_le h.1, hl.trans_le h.2⟩

theorem columnCells_bounded {α : Type} {cols : List (List α)} {S : Nat} (hL : cols.length ≤ Config.lMax)
    (hS : S ≤ Config.sMax) (hcols : ∀ col ∈ cols, col.length = S) :
    ∀ c ∈ columnCells cols, cellInBounds (c.1 / 256) (c.1 % 256) = true := by
  rintro ⟨k, v⟩ hc
  obtain ⟨l, sec, hl, hs, rfl, -⟩ := mem_columnCells_iff.1 hc
  rw [hcols _ (List.getElem_mem hl)] at hs
  exact gridCell_bounded (cellInBounds_iff.2 ⟨hs.trans_le hS, hl.trans_le hL⟩)

theorem sectors_bounded {α : Type} {n : Nat} (val : Nat → α) (hn : n ≤ Config.sMax) :
    ∀ c ∈ (List.range n).map fun sec => (sec, val sec), decide (c.1 < Config.sMax) = true := by
  intro c hc
  obtain ⟨sec, hsec, rfl⟩ := List.mem_map.1 hc
  exact decide_eq_true ((List.mem_range.1 hsec).trans_le hn)

theorem memsInv_samplePass (h : MemsInv s.mems) (hready : ShapeReady s) : MemsInv (samplePass s).mems := by
  obtain ⟨-, hS, -, hL⟩ := hready
  have hlen {col : List (Option Color)} (hcol : col ∈ newColumns s) := length_of_mem_newColumns hcol
  rw [samplePass_mems]
  refine { h with
    new := bounded_writeAll h.new (columnCells_bounded (by simpa using hL) hS fun col hcol => hlen hcol)
    full := bounded_writeAll h.full (columnCells_bounded (by simpa using hL) hS fun col hcol => ?_)
    conv := bounded_writeAll h.conv (sectors_bounded _ hS) }
  obtain ⟨new, hnew, rfl⟩ := List.mem_map.1 hcol
  rw [expandColumn_length, hlen hnew]

theorem memsInv_gridLoadPass (h : MemsInv s.mems) (hready : ShapeReady s) : MemsInv (gridLoadPass s).mems := by
  obtain ⟨-, hS, -, hL⟩ := hready
  refine { h with
    new := bounded_writeAll h.new fun c hc => ?_
    conv := bounded_writeAll h.conv (sectors_bounded (fun _ => false) hS) }
  obtain ⟨⟨sec, l⟩, hin, rfl⟩ := List.mem_map.1 hc
  obtain ⟨hs, hl⟩ := mem_shapeCells_iff.1 hin
  exact gridCell_bounded (cellInBounds_iff.2 ⟨hs.trans_le hS, hl.trans_le hL⟩)

theorem coefInBounds_of_shape {ax : Axis} {n e : Nat} (h : ShapeInBounds s) (hn : n < lineCount s ax)
    (he : e < lineLength s ax) : coefInBounds ax n e = true := by
  cases ax with
  | rad => exact cellInBounds_of_shape h hn he
  | ang => exact cellInBounds_of_shape h he hn

theorem memsInv_fwdPass (ax : Axis) (bs : Basis) (h : MemsInv s.mems) (hshape : ShapeInBounds s) :
    MemsInv (fwdPass ax bs s).mems := by
  have hcells : ∀ c ∈ fwdCells s ax bs s.regs.ftN.toNat, (decide (c.1 % 4 < 3) &&
      coefInBounds ax (c.1 / 4 / coefStride ax) (c.1 / 4 % coefStride ax)) = true := by
    rintro ⟨k, v⟩ hc
    obtain ⟨n, b, i, c, hn, hb, hi, rfl, -⟩ := mem_fwdCells_iff.1 hc
    exact coefCell_bounded c
      (coefInBounds_of_shape hshape hn ((block_position_lt hb hi).trans_le (Nat.div_mul_le_self _ _)))
  cases ax with
  | rad => exact { h with coefRad := bounded_writeAll h.coefRad hcells }
  | ang => exact { h with coefAng := bounded_writeAll h.coefAng hcells }

theorem memsInv_invPass (ax : Axis) (h : MemsInv s.mems) (hshape : ShapeInBounds s) : MemsInv (invPass ax s).mems := by
  have inside {n p : Nat} (hn : n < lineCount s ax) (hp : p < lineLength s ax) :
      cellInBounds (lineCell ax n p).1 (lineCell ax n p).2 = true :=
    cellInBounds_of_shape hshape (lineCell_bounds hn hp).1 (lineCell_bounds hn hp).2
  refine { h with
    wide := bounded_writeAll h.wide fun c hc => ?_
    inv := bounded_writeAll h.inv fun c hc => ?_ }
  · obtain ⟨n, p, k, hn, hp, hk, -⟩ := mem_recons_wide_iff.1 hc
    rw [hk]
    exact wideCell_bounded k (inside hn hp)
  · obtain ⟨n, p, hn, hp, hk, -⟩ := mem_recons_inv_iff.1 hc
    rw [hk]
    exact gridCell_bounded (inside hn hp)

theorem memsInv_lineAppended {x : List Color} {ax : Axis} {sr : Source} {n : Nat} (h : MemsInv s.mems)
    (hlcnt : s.regs.lcnt.toNat < Config.ltabMax)
    (hroom : s.regs.clen.toNat + (encodeLine x).bytes.length ≤ Config.cbufBytes) :
    MemsInv (lineAppended x ax sr n s).mems := by
  refine { h with
    cbuf := bounded_writeAll h.cbuf fun c hc => ?_
    ltab := bounded_writeAll h.ltab fun c hc => ?_ }
  · obtain ⟨q, hq, hk⟩ := mem_bytesAt_iff.1 hc
    have := (List.getElem?_eq_some_iff.1 hq).1
    exact decide_eq_true (by omega)
  · obtain rfl := List.mem_singleton.1 hc
    exact decide_eq_true hlcnt

theorem memsInv_decoded {m : Nat} {d : Decoded} (h : MemsInv s.mems) (hm : m ≤ 256)
    (hplaces : d.cells.map Prod.fst = List.range m) : MemsInv (latchDec d.decEnd (writeDbuf d.cells s)).mems := by
  refine { h with dbuf := bounded_writeAll h.dbuf fun c hc => ?_ }
  have := List.mem_range.1 (hplaces ▸ List.mem_map_of_mem hc)
  exact decide_eq_true (by omega)

/-- A write to a target that exists stays inside its memory (20_memory.md R93). -/
theorem memsInv_targetWrite (v : Word) {t : Target} (h : MemsInv s.mems) (ht : targetExists t = true) :
    MemsInv (targetWrite v t s).mems := by
  cases t with
  | reg q =>
    change MemsInv (regWrite v q s).mems
    rwa [regWrite_mems]
  | cbuf q =>
    refine { h with cbuf := bounded_writeAll h.cbuf fun c hc => ?_ }
    have hq : 4 * q + 3 < Config.cbufBytes := of_decide_eq_true ht
    simp only [cbufLanes, List.mem_cons, List.not_mem_nil, or_false] at hc
    rcases hc with rfl | rfl | rfl | rfl <;> exact decide_eq_true (by simp only; omega)
  | img y x =>
    obtain ⟨hx, hy⟩ := Bool.and_eq_true_iff.1 ht
    refine { h with img := bounded_writeAll h.img fun c hc => ?_ }
    obtain rfl := List.mem_singleton.1 hc
    exact imgCell_bounded (of_decide_eq_true hx) (of_decide_eq_true hy)
  | full sec l =>
    refine { h with full := bounded_writeAll h.full fun c hc => ?_ }
    obtain rfl := List.mem_singleton.1 hc
    exact gridCell_bounded ht
  | _ => exact h

end

end Sys2Proof.Machine
end

section
/-! PROOFS. Every step keeps the invariant (20_memory.md R116, 43_control.md R252). -/

namespace Sys2Proof.Machine

section
variable {s t : State}

theorem inv_raise (e : ErrCode) (h : Inv s) : Inv (raise e s) := ⟨regsInv_raiseFor _ e h.1, h.2⟩

theorem inv_clearStream (h : Inv s) : Inv (clearStream s) := ⟨regsInv_clearStream h.1, h.2⟩

theorem inv_lineAppended {x : List Color} {ax : Axis} {sr : Source} {n : Nat} (h : Inv s)
    (hfree : s.regs.lcnt.toNat ≠ Config.ltabMax)
    (hroom : s.regs.clen.toNat + (encodeLine x).bytes.length ≤ Config.cbufBytes) : Inv (lineAppended x ax sr n s) :=
  ⟨regsInv_lineAppended h.1 hfree hroom,
    memsInv_lineAppended h.2 (Nat.lt_of_le_of_ne h.1.stream.2 hfree) hroom⟩

theorem inv_hencLoop (ax : Axis) (sr : Source) (ns : List Nat) (h : Inv s) : Inv (hencLoop ax sr ns s) := by
  refine hencLoop_induction Inv ax sr ns s h ?append (fun e t ht => inv_raise e ht) fun t ht => inv_clearStream ht
  intro n t u _ ht ha
  obtain ⟨hfree, hroom, rfl⟩ := appendLine_eq_ok_iff.1 ha
  exact inv_lineAppended ht hfree hroom

/-- R71: as many sectors as the grid has bound the converted ones. -/
theorem convCount_le (s : State) :
    (BitVec.ofNat 16 (convertedCount (newColumns s) s.regs.cfgS.toNat)).toNat ≤ s.regs.cfgS.toNat :=
  calc _ ≤ convertedCount (newColumns s) s.regs.cfgS.toNat := Nat.mod_le _ _
    _ ≤ (List.range s.regs.cfgS.toNat).length := List.length_filter_le _ _
    _ = s.regs.cfgS.toNat := List.length_range

theorem inv_of_performed {i : Instr} (h : Inv s) (hp : Performed i s t) : Inv t := by
  cases hp with
  | nop => exact h
  | sample hready =>
    have ⟨_, _, hshape, _⟩ := hready
    have ⟨hS, hS', hL, hL'⟩ := hshape
    exact ⟨regsInv_latchGrid (s := s) h.1 ⟨hS, hS'⟩ ⟨hL, hL'⟩ (convCount_le s), memsInv_samplePass h.2 hshape⟩
  | gridLoad hshape =>
    have ⟨hS, hS', hL, hL'⟩ := hshape
    exact ⟨regsInv_latchGrid (s := s) h.1 ⟨hS, hS'⟩ ⟨hL, hL'⟩ (Nat.zero_le _), memsInv_gridLoadPass h.2 hshape⟩
  | fwd ax bs hcheck =>
    obtain ⟨hgrid, hN⟩ := (checkFwd_eq_none_iff s).1 hcheck
    exact ⟨fwdPass_regs ax bs s ▸ regsInv_latchFwd ax bs h.1 hgrid hN, memsInv_fwdPass ax bs h.2 h.1.shape⟩
  | inv ax hvalid =>
    exact ⟨regsInv_latchInv ax _ (s := s) h.1 (gridValid_of_coefValid h.1 hvalid), memsInv_invPass ax h.2 h.1.shape⟩
  | hencLine ax sr n _ _ hfree hroom => exact inv_lineAppended h hfree hroom
  | hencAll ax sr => exact inv_hencLoop ax sr _ (inv_clearStream h)
  | hdec d hready hread =>
    have ⟨_, hlen, hruns, _⟩ := hready
    have hend := (decEnd_le_clen_of_readLine hruns hread).trans h.1.stream.1
    exact ⟨regsInv_latchDec (s := s) h.1 hend, memsInv_decoded h.2 hlen (map_fst_cells_of_readLine hread)⟩
  | cbufClear => exact inv_clearStream h

theorem inv_of_exec {i : Instr} (h : Inv s) (hexec : exec i s = .next t) : Inv t := by
  rcases raise_or_performed_of_exec hexec with ⟨e, rfl⟩ | hp
  · exact inv_raise e h
  · exact inv_of_performed h hp

theorem inv_complete (h : Inv s) : Inv (complete s) := ⟨regsInv_complete h.1, h.2⟩

theorem inv_of_engineStep (h : Inv s) (hstep : engineStep s = .next t) : Inv t := by
  rcases engineStep_cases s with ⟨-, he⟩ | ⟨i, -, -, he⟩ | ⟨_, -, -, he⟩
  · obtain rfl := Host.Outcome.next.inj (he.symm.trans hstep)
    exact h
  · obtain ⟨u, hu⟩ := exec_total i s
    rw [hu] at he
    obtain rfl := Host.Outcome.next.inj (he.symm.trans hstep)
    exact inv_complete (inv_of_exec h hu)
  · obtain rfl := Host.Outcome.next.inj (he.symm.trans hstep)
    exact inv_complete (inv_raise _ h)

theorem inv_targetWrite (v : Word) {t : Target} (h : Inv s) (ht : targetExists t = true) : Inv (targetWrite v t s) := by
  refine ⟨?_, memsInv_targetWrite v h.2 ht⟩
  cases t with
  | reg q => exact regsInv_regWrite v q h.1
  | _ => exact h.1

theorem targetExists_of_targetOf {off size : Nat} {t : Target} (h : targetOf off size = some t) :
    targetExists t = true := by
  unfold targetOf at h
  split at h
  case isTrue hlegal => exact (standsAt_of_mapOffset hlegal.2 h).1
  case isFalse => cases h

theorem inv_hostStep (x : Transaction) (h : Inv s) : Inv (hostStep x s) := by
  cases x with
  | read off size =>
    change Inv (hostRead off size s).2
    rcases hostRead_cases off size s with ⟨-, he⟩ | ⟨_, -, -, -, he⟩ | ⟨_, -, -, he⟩ <;> rw [he]
    · exact ⟨regsInv_setBusErr h.1, h.2⟩
    · exact ⟨regsInv_setHaz h.1, h.2⟩
    · exact h
  | write off size v =>
    change Inv (hostWrite off size v s)
    rcases hostWrite_cases off size v s with ⟨-, he⟩ | ⟨_, -, -, -, -, he⟩ | ⟨t, ht, -, -, he⟩ <;> rw [he]
    · exact ⟨regsInv_setBusErr h.1, h.2⟩
    · exact ⟨regsInv_setHaz h.1, h.2⟩
    · exact inv_targetWrite v h (targetExists_of_targetOf ht)

end

/-- Settles O58: each operation a step is made of keeps the registers' relations and the memories' form and bounds. -/
theorem stepKeepsInvariant : Obligations.StepKeepsInvariant := by
  unfold Obligations.StepKeepsInvariant
  intro s t h hstep
  rcases step_cases s with ⟨-, he⟩ | ⟨rest, -, he⟩ | ⟨rest, -, he⟩ | ⟨rest, x, -, he⟩
  · exact inv_of_engineStep h (he.symm.trans hstep)
  · exact inv_of_engineStep (s := { s with inputs := rest }) h (he.symm.trans hstep)
  · obtain rfl := Host.Outcome.next.inj (he.symm.trans hstep)
    exact ⟨regsInv_reset, memsInv_unwritten⟩
  · obtain rfl := Host.Outcome.next.inj (he.symm.trans hstep)
    exact inv_hostStep (s := { s with inputs := rest }) x h

end Sys2Proof.Machine
end

section
/-! SUPPORT. Which bits a number has: the model's tests on bits said of the number they stand for, and one F64 for each
positive number (00_scope.md R17). -/

namespace Sys2Proof

section
variable {x y : F64} {q : ℚ}

theorem F64.isZero_iff_mant (x : F64) : F64.isZero x = true ↔ F64.mant x = 0 := by
  constructor
  · intro h
    by_contra hm
    rw [F64.isZero_of_mant_ne_zero hm] at h
    cases h
  · intro h
    have hexp : F64.expField x = 0 := by
      by_contra he
      rw [F64.mant, if_neg he] at h
      omega
    rw [F64.mant, if_pos hexp] at h
    refine decide_eq_true ?_
    unfold F64.expField F64.fracField at *
    omega

theorem F64.isZero_iff (x : F64) : F64.isZero x = true ↔ F64.toRat x = 0 := by
  rw [F64.isZero_iff_mant]
  constructor
  · intro h
    rw [F64.toRat_eq, h]
    simp
  · intro h
    by_contra hm
    have hpos : (0 : ℚ) < F64.mant x * (2 : ℚ) ^ F64.expo x := by
      have : (0 : ℚ) < F64.mant x := by exact_mod_cast Nat.pos_of_ne_zero hm
      positivity
    rw [← F64.abs_toRat, h, abs_zero] at hpos
    exact lt_irrefl _ hpos

theorem F64.neg_of_toRat_pos (h : 0 < F64.toRat x) : F64.neg x = false := by
  cases hneg : F64.neg x with
  | false => rfl
  | true =>
    rw [F64.toRat_eq, hneg] at h
    have : (0 : ℚ) ≤ F64.mant x * (2 : ℚ) ^ F64.expo x := by positivity
    simp only [F64.signFactor, if_true] at h
    linarith

theorem F64.toRat_of_pos (h : 0 < F64.toRat x) : F64.toRat x = F64.mant x * (2 : ℚ) ^ F64.expo x := by
  rw [← F64.abs_toRat, abs_of_pos h]

theorem F64.posFinite_of_pos (hfin : F64.isFinite x = true) (h : 0 < F64.toRat x) : F64.posFinite x = true := by
  have hzero : F64.isZero x = false := by
    rw [Bool.eq_false_iff, Ne, F64.isZero_iff]
    exact h.ne'
  rw [F64.posFinite, hfin, F64.neg_of_toRat_pos h, hzero]
  rfl

/-- Above the smallest exponent the significand has its leading bit. -/
theorem F64.le_mant_of_expo (h : -1074 < F64.expo x) : 2 ^ 52 ≤ F64.mant x := by
  have he : F64.expField x ≠ 0 := by unfold F64.expo at h; omega
  rw [F64.mant, if_neg he]
  omega

/-- Equal magnitudes have equal significands and exponents. -/
theorem F64.mant_expo_of_eq
    (h : (F64.mant x : ℚ) * (2 : ℚ) ^ F64.expo x = F64.mant y * (2 : ℚ) ^ F64.expo y) (hle : F64.expo x ≤ F64.expo y) :
    F64.mant x = F64.mant y ∧ F64.expo x = F64.expo y := by
  rw [two_zpow_eq_mul_pow hle, ← mul_assoc] at h
  have hnat : F64.mant x = F64.mant y * 2 ^ (F64.expo y - F64.expo x).toNat := by
    have := mul_right_cancel₀ (by positivity) h
    exact_mod_cast this
  rcases hle.eq_or_lt with heq | hlt
  · rw [heq, sub_self, Int.toNat_zero, pow_zero, mul_one] at hnat
    exact ⟨hnat, heq⟩
  · exfalso
    have hlow : -1074 ≤ F64.expo x := by unfold F64.expo; omega
    have hy := F64.le_mant_of_expo (x := y) (by omega)
    have hx' := F64.mant_lt x
    obtain ⟨d, hd⟩ := Nat.exists_eq_add_of_le' (show 1 ≤ (F64.expo y - F64.expo x).toNat by omega)
    rw [hd, pow_succ] at hnat
    have : 1 ≤ 2 ^ d := Nat.one_le_two_pow
    nlinarith

theorem F64.eq_of_mant_expo (hneg : F64.neg x = F64.neg y) (hmant : F64.mant x = F64.mant y)
    (hexpo : F64.expo x = F64.expo y) : x = y := by
  have hsign (z : F64) : z.toNat = (if F64.neg z then 2 ^ 63 else 0) + z.toNat % 2 ^ 63 := by
    have hz := z.isLt
    have hbit : F64.neg z = decide (z.toNat / 2 ^ 63 % 2 = 1) := by
      rw [F64.neg, BitVec.getLsbD, Nat.testBit_eq_decide_div_mod_eq]
    rw [hbit]
    simp only [decide_eq_true_eq]
    split <;> omega
  have hmag : x.toNat % 2 ^ 63 = y.toNat % 2 ^ 63 := by
    unfold F64.mant F64.fracField at hmant
    unfold F64.expo at hexpo
    unfold F64.expField at *
    split at hmant <;> split at hmant <;> omega
  apply BitVec.eq_of_toNat_eq
  rw [hsign x, hsign y, hneg, hmag]

/-- A positive number is one F64. -/
theorem F64.eq_of_toRat_eq (hpos : 0 < F64.toRat x) (h : F64.toRat x = F64.toRat y) : x = y := by
  have hneg : F64.neg x = F64.neg y := by
    rw [F64.neg_of_toRat_pos hpos, F64.neg_of_toRat_pos (h ▸ hpos)]
  have hval := h
  rw [F64.toRat_of_pos hpos, F64.toRat_of_pos (h ▸ hpos)] at hval
  rcases le_total (F64.expo x) (F64.expo y) with hle | hle
  · obtain ⟨hm, he⟩ := F64.mant_expo_of_eq hval hle
    exact F64.eq_of_mant_expo hneg hm he
  · obtain ⟨hm, he⟩ := F64.mant_expo_of_eq hval.symm hle
    exact F64.eq_of_mant_expo hneg hm.symm he.symm

theorem F64.inUnitBall_of_le (h : |F64.toRat x| ≤ 1) : F64.inUnitBall x = true := by
  refine decide_eq_true ?_
  by_contra hbits
  have hlarge : 1 < (F64.mant x : ℚ) * (2 : ℚ) ^ F64.expo x := by
    rcases Nat.lt_or_ge 1023 (F64.expField x) with hexp | hexp
    · have hexpo : -51 ≤ F64.expo x := by unfold F64.expo; omega
      have hmant : (2 ^ 52 : ℚ) ≤ F64.mant x := by exact_mod_cast F64.le_mant_of_expo (x := x) (by omega)
      calc (1 : ℚ) < 2 ^ 52 * (2 : ℚ) ^ (-51 : ℤ) := by norm_num
        _ ≤ F64.mant x * (2 : ℚ) ^ F64.expo x :=
          mul_le_mul hmant (zpow_le_zpow_right₀ (by norm_num) hexpo) (by positivity) (by positivity)
    · have hfield : F64.expField x = 1023 ∧ 0 < F64.fracField x := by
        unfold F64.fracField
        unfold F64.expField at *
        omega
      have hexpo : F64.expo x = -52 := by unfold F64.expo; omega
      have hmant : (2 ^ 52 : ℚ) < F64.mant x := by
        have : 2 ^ 52 < F64.mant x := by rw [F64.mant, if_neg (by omega)]; omega
        exact_mod_cast this
      rw [hexpo]
      calc (1 : ℚ) = 2 ^ 52 * (2 : ℚ) ^ (-52 : ℤ) := by norm_num
        _ < F64.mant x * (2 : ℚ) ^ (-52 : ℤ) := by gcongr
  rw [← F64.abs_toRat] at hlarge
  exact absurd h (not_le.2 hlarge)

theorem F64.inUnit_of_mem (h : 0 ≤ F64.toRat x) (h' : F64.toRat x ≤ 1) : F64.inUnit x = true := by
  rw [F64.inUnit, F64.inUnitBall_of_le (by rwa [abs_of_nonneg h]), Bool.true_and, Bool.or_eq_true]
  rcases h.eq_or_lt with h0 | hpos
  · exact .inr ((F64.isZero_iff x).2 h0.symm)
  · exact .inl (by rw [F64.neg_of_toRat_pos hpos]; rfl)

/-- The test of [0, 1] on bits is sound: such a value is finite and between 0 and 1. -/
theorem F64.mem_of_inUnit (h : F64.inUnit x = true) :
    F64.isFinite x = true ∧ 0 ≤ F64.toRat x ∧ F64.toRat x ≤ 1 := by
  rw [F64.inUnit, Bool.and_eq_true, Bool.or_eq_true, Bool.not_eq_true'] at h
  obtain ⟨hball, hsign⟩ := h
  have hb := F64.boundedBy_one_of_inUnitBall hball
  refine ⟨hb.finite, ?_, (le_abs_self _).trans hb.bound⟩
  rcases hsign with hneg | hzero
  · rw [F64.toRat_eq, hneg]
    simp only [F64.signFactor, Bool.false_eq_true, if_false]
    positivity
  · exact ((F64.isZero_iff x).1 hzero).ge

end

/-! ### The ends of POW64 -/

section
variable {x y : F64}

theorem pow64_one (hy : F64.posFinite y = true) : pow64 F64.one y = F64.one := by
  have hunit : F64.inUnit F64.one = true := by decide
  rw [pow64, hunit, hy]
  exact if_pos rfl

theorem pow64_zero (hy : F64.posFinite y = true) : pow64 F64.zero y = F64.zero := by
  have hunit : F64.inUnit F64.zero = true := by decide
  have hne : F64.zero ≠ F64.one := by decide
  rw [pow64, hunit, hy, if_neg hne]
  exact if_pos rfl

/-- The power of a zero of either sign is a zero. -/
theorem pow64_of_zero (hx : F64.Stands 0 x) (hy : F64.posFinite y = true) : F64.Stands 0 (pow64 x y) := by
  by_cases hplus : x = F64.zero
  · rw [hplus, pow64_zero hy]
    exact F64.stands_zero
  · have hunit : F64.inUnit x = true := F64.inUnit_of_mem hx.2.ge (by rw [hx.2]; exact zero_le_one)
    have hne : x ≠ F64.one := by
      rintro rfl
      exact one_ne_zero (F64.stands_one.2.symm.trans hx.2)
    have hzero : F64.isZero x = true := (F64.isZero_iff x).2 hx.2
    rw [pow64, hunit, hy, if_neg hne, if_neg hplus, hzero]
    simp only [Bool.and_self, if_true]
    split
    case isTrue h =>
      have hfree := (F64.isZero_iff _).1 h
      have hball := F64.inUnitBall_of_le (x := Config.powFree x y) (by rw [hfree, abs_zero]; exact zero_le_one)
      exact ⟨(F64.boundedBy_one_of_inUnitBall hball).finite, hfree⟩
    case isFalse => exact F64.stands_zero

end

end Sys2Proof
end

section
/-! PROOFS. The statements about neighbourhoods and one-colored images (40_sampler.md R156 to R161). -/

namespace Sys2Proof.Machine

/-! ### The sums of a neighbourhood -/

theorem sampleOffsets_eq (s : State) : sampleOffsets s =
    (List.range (2 * s.regs.sampleRad.toNat + 1)).map fun i : Nat => (i : ℤ) - s.regs.sampleRad.toNat := by
  rw [List.map_eq_flatMap]
  simp [sampleOffsets, List.map_flatMap]

theorem sampleOffsets_nodup (s : State) : (sampleOffsets s).Nodup := by
  rw [sampleOffsets_eq]
  exact List.nodup_range.map fun i j h => by simpa using h

theorem toFinset_sampleOffsets (s : State) :
    (sampleOffsets s).toFinset = Finset.Icc (-(s.regs.sampleRad.toNat : ℤ)) s.regs.sampleRad.toNat := by
  ext d
  simp only [sampleOffsets_eq, List.mem_toFinset, List.mem_map, List.mem_range, Finset.mem_Icc]
  constructor
  · rintro ⟨i, hi, rfl⟩
    omega
  · rintro ⟨hlow, hhigh⟩
    exact ⟨(d + s.regs.sampleRad.toNat).toNat, by omega, by omega⟩

/-- A sum over the offsets in list order is the sum over the interval (R156). -/
theorem sum_map_sampleOffsets (s : State) (f : ℤ → Nat) : ((sampleOffsets s).map f).sum =
    ∑ d ∈ Finset.Icc (-(s.regs.sampleRad.toNat : ℤ)) s.regs.sampleRad.toNat, f d := by
  rw [← toFinset_sampleOffsets, List.sum_toFinset f (sampleOffsets_nodup s)]

theorem channelSum_flatMap {α : Type} (k : Channel) (l : List α) (f : α → List Color) :
    channelSum k (l.flatMap f) = (l.map fun a => channelSum k (f a)).sum := by
  induction l with
  | nil => rfl
  | cons a l ih =>
    simp only [channelSum, List.flatMap_cons, List.map_append, List.sum_append, List.map_cons, List.sum_cons] at ih ⊢
    rw [ih]

theorem channelSum_map {α : Type} (k : Channel) (l : List α) (f : α → Color) :
    channelSum k (l.map f) = (l.map fun a => (channelOf k (f a)).toNat).sum := by
  rw [channelSum, List.map_map]
  rfl

theorem clamp_eq (n m : Int) (hm : 0 ≤ m) : clamp n 0 m = max 0 (min n m) := by
  unfold clamp
  omega

theorem channelSum_le (k : Channel) (pixels : List Color) : channelSum k pixels ≤ 255 * pixels.length := by
  have h := List.sum_le_card_nsmul (pixels.map fun c => (channelOf k c).toNat) 255 fun n hn => by
    obtain ⟨c, -, rfl⟩ := List.mem_map.1 hn
    exact Nat.lt_succ_iff.1 (channelOf k c).isLt
  rwa [List.length_map, smul_eq_mul, mul_comm] at h

theorem length_neighbourhood (s : State) (cx cy : Int) : (neighbourhood s cx cy).length = sampleArea s := by
  simp [neighbourhood, sampleOffsets_eq, sampleArea, List.length_flatMap, Function.comp_def]

/-- Settles O29: the list of offsets is the interval, and a clamped coordinate is inside the image. -/
theorem neighbourhoodSums : Obligations.NeighbourhoodSums := by
  unfold Obligations.NeighbourhoodSums
  intro s k cx cy hw hh
  refine ⟨?sum, fun n => ⟨?_, ?_⟩, ?bound, length_neighbourhood s cx cy⟩
  case sum =>
    rw [neighbourhood, channelSum_flatMap, sum_map_sampleOffsets]
    refine Finset.sum_congr rfl fun dy _ => ?_
    rw [channelSum_map, sum_map_sampleOffsets]
    refine Finset.sum_congr rfl fun dx _ => ?_
    rw [clamp_eq _ _ (by omega), clamp_eq _ _ (by omega)]
  case bound =>
    rw [← length_neighbourhood s cx cy]
    exact channelSum_le k _
  · rw [← clamp_eq _ _ (by omega)]
    exact clamp_toNat_lt hh n
  · rw [← clamp_eq _ _ (by omega)]
    exact clamp_toNat_lt hw n

/-! ### Images of one color -/

section
variable {s : State}

/-- On an image of one color every neighbourhood is that color. -/
theorem neighbourhood_of_constant {c : Color} (hw : 1 ≤ s.regs.imgW.toNat) (hh : 1 ≤ s.regs.imgH.toNat)
    (h : ∀ y x, y < s.regs.imgH.toNat → x < s.regs.imgW.toNat → readImg s y x = c) (cx cy : Int) :
    neighbourhood s cx cy = List.replicate (sampleArea s) c := by
  refine List.eq_replicate_iff.2 ⟨length_neighbourhood s cx cy, fun p hp => ?_⟩
  obtain ⟨dy, -, hp⟩ := List.mem_flatMap.1 hp
  obtain ⟨dx, -, rfl⟩ := List.mem_map.1 hp
  exact h _ _ (clamp_toNat_lt hh _) (clamp_toNat_lt hw _)

theorem channelSum_replicate (k : Channel) (n : Nat) (c : Color) :
    channelSum k (List.replicate n c) = n * (channelOf k c).toNat := by
  simp [channelSum]

theorem sampleArea_bounds (s : State) : 0 < 255 * sampleArea s ∧ 255 * sampleArea s < 2 ^ 53 := by
  have hrad := s.regs.sampleRad.isLt
  have harea : sampleArea s ≤ 511 * 511 := Nat.mul_le_mul (by omega) (by omega)
  have hpos : 0 < sampleArea s := Nat.mul_pos (by omega) (by omega)
  omega

/-- The maximum of a channel, as the register holds it (R50). -/
def channelMaxReg (s : State) : Channel → BitVec 8
  | .red => s.regs.rMax
  | .green => s.regs.gMax
  | .blue => s.regs.bMax

theorem channelMax_eq_toNat (s : State) (k : Channel) : channelMax s k = (channelMaxReg s k).toNat := by
  cases k <;> rfl

/-- A rescaled value that stands for a byte is that byte (R160). -/
theorem channelValue_of_stands {k : Channel} {sum : Nat} {b : BitVec 8}
    (h : F64.Stands b.toNat (F64.mul (pow64 (F64.div (F64.ofNat sum) (F64.ofNat (255 * sampleArea s))) s.regs.gamma)
      (F64.ofNat (channelMax s k)))) : channelValue s k sum = b := by
  have htrunc := trunc_of_isFinite h.1
  rw [h.2, if_pos (Nat.cast_nonneg _), Int.floor_natCast] at htrunc
  change clamp8 (F64.trunc _) = b
  rw [htrunc]
  exact clamp8_toNat b

theorem stands_channelMax (s : State) (k : Channel) :
    F64.Stands (channelMaxReg s k).toNat (F64.ofNat (channelMax s k)) := by
  rw [channelMax_eq_toNat]
  have := (channelMaxReg s k).isLt
  exact F64.stands_ofNat (by omega)

/-- A full sum normalises to 1.0, whose power is 1.0 (00_scope.md R19 P4). -/
theorem channelValue_full (hgamma : F64.posFinite s.regs.gamma = true) (k : Channel) :
    channelValue s k (255 * sampleArea s) = channelMaxReg s k := by
  obtain ⟨hpos, hlt⟩ := sampleArea_bounds s
  have harea := F64.stands_ofNat hlt
  have hne : ((255 * sampleArea s : Nat) : ℚ) ≠ 0 := by exact_mod_cast hpos.ne'
  have hone : F64.Stands 1 (F64.div (F64.ofNat (255 * sampleArea s)) (F64.ofNat (255 * sampleArea s))) := by
    have h := harea.div harea hne (by rw [div_self hne]; exact F64.stands_one.representable)
    rwa [div_self hne] at h
  have hbits : F64.div (F64.ofNat (255 * sampleArea s)) (F64.ofNat (255 * sampleArea s)) = F64.one :=
    F64.eq_of_toRat_eq (by rw [hone.2]; exact one_pos) (hone.2.trans F64.stands_one.2.symm)
  have hmax := stands_channelMax s k
  have hmul := F64.stands_one.mul hmax (by rw [one_mul]; exact hmax.representable)
  rw [one_mul] at hmul
  exact channelValue_of_stands (by rwa [hbits, pow64_one hgamma])

/-- An empty sum normalises to 0, whose power is 0. -/
theorem channelValue_empty (hgamma : F64.posFinite s.regs.gamma = true) (k : Channel) : channelValue s k 0 = 0 := by
  obtain ⟨hpos, hlt⟩ := sampleArea_bounds s
  have hne : ((255 * sampleArea s : Nat) : ℚ) ≠ 0 := by exact_mod_cast hpos.ne'
  have hnone : F64.Stands 0 (F64.ofNat 0) := by simpa using F64.stands_ofNat (n := 0) (by norm_num)
  have hpow := pow64_of_zero (hnone.div_of_zero (F64.stands_ofNat hlt) hne) hgamma
  have hmul := hpow.mul (stands_channelMax s k) (by rw [zero_mul]; exact F64.stands_zero.representable)
  rw [zero_mul] at hmul
  exact channelValue_of_stands (by simpa using hmul)

end

/-- Settles O30: the neighbourhoods of a one-colored image have the largest and the least channel sums. -/
theorem whiteAndBlackImages : Obligations.WhiteAndBlackImages := by
  unfold Obligations.WhiteAndBlackImages
  intro s t hready hexec sec l hs hl
  obtain rfl := Host.Outcome.next.inj ((exec_sample_of_ready hready).symm.trans hexec)
  have ⟨⟨hw, _⟩, ⟨hh, _⟩, hshape, _, hgamma, _⟩ := hready
  rw [readFull_samplePass (hshape.2.2.2.trans Config.lMax_bounds.2) hs hl]
  refine ⟨fun hwhite => ?_, fun hblack => ?_⟩
  · have hsum (k : Channel) : channelSum k (List.replicate (sampleArea s) 0xFFFFFF) = 255 * sampleArea s := by
      have hchannel : (channelOf k 0xFFFFFF).toNat = 255 := by cases k <;> decide
      rw [channelSum_replicate, hchannel, mul_comm]
    rw [sampleColor, neighbourhood_of_constant hw hh hwhite, colorOfPixels, hsum, hsum, hsum, channelValue_full hgamma,
      channelValue_full hgamma, channelValue_full hgamma]
    rfl
  · have hsum (k : Channel) : channelSum k (List.replicate (sampleArea s) 0x000000) = 0 := by
      have hchannel : (channelOf k 0x000000).toNat = 0 := by cases k <;> decide
      rw [channelSum_replicate, hchannel, mul_zero]
    rw [sampleColor, neighbourhood_of_constant hw hh hblack, colorOfPixels, hsum, hsum, hsum, channelValue_empty hgamma,
      channelValue_empty hgamma, channelValue_empty hgamma]
    rfl

end Sys2Proof.Machine
end

section
/-! SUPPORT. Dyadic numbers as an odd integer times a power of two, their roots and their powers: what `exactPow` computes
and that it finds every exact power (00_scope.md R19 P5). -/

namespace Sys2Proof

/-! ### Odd integers times powers of two -/

theorem oddPart_spec {fuel m : Nat} (e : ℤ) (hpos : 0 < m) (hlt : m < 2 ^ fuel) :
    (oddPart fuel m e).1 % 2 = 1 ∧ (oddPart fuel m e).1 ≤ m ∧
      ((oddPart fuel m e).1 : ℚ) * (2 : ℚ) ^ (oddPart fuel m e).2 = m * (2 : ℚ) ^ e := by
  induction fuel generalizing m e with
  | zero => omega
  | succ fuel ih =>
    rw [oddPart]
    split
    case isFalse hodd => exact ⟨by omega, le_rfl, rfl⟩
    case isTrue heven =>
      obtain ⟨hodd, hle, hval⟩ := ih (m := m / 2) (e + 1) (by omega) (by rw [pow_succ] at hlt; omega)
      refine ⟨hodd, hle.trans (Nat.div_le_self m 2), hval.trans ?_⟩
      have hm : (m : ℚ) = (m / 2 : Nat) * 2 := by exact_mod_cast (Nat.div_mul_cancel (Nat.dvd_of_mod_eq_zero heven)).symm
      conv_rhs => rw [hm]
      rw [zpow_add_one₀ (by norm_num)]
      ring

/-- The odd part has the least exponent's unit: an odd integer is no multiple of a higher power of two. -/
theorem odd_eq_mul_pow {m n : Nat} {e f : ℤ} (hodd : m % 2 = 1) (h : (m : ℚ) * (2 : ℚ) ^ e = n * (2 : ℚ) ^ f) :
    f ≤ e ∧ n = m * 2 ^ (e - f).toNat := by
  rcases lt_or_ge e f with hlt | hle
  · exfalso
    rw [two_zpow_eq_mul_pow hlt.le, ← mul_assoc] at h
    have hnat : m = n * 2 ^ (f - e).toNat := by
      have := mul_right_cancel₀ (by positivity) h
      exact_mod_cast this
    obtain ⟨d, hd⟩ := Nat.exists_eq_add_of_le' (show 1 ≤ (f - e).toNat by omega)
    rw [hd, pow_succ, ← mul_assoc] at hnat
    omega
  · refine ⟨hle, ?_⟩
    rw [two_zpow_eq_mul_pow hle, ← mul_assoc] at h
    have := mul_right_cancel₀ (by positivity) h
    exact_mod_cast this.symm

theorem odd_mul_zpow_inj {m n : Nat} {e f : ℤ} (hm : m % 2 = 1) (hn : n % 2 = 1)
    (h : (m : ℚ) * (2 : ℚ) ^ e = n * (2 : ℚ) ^ f) : m = n ∧ e = f := by
  obtain ⟨hle, hnm⟩ := odd_eq_mul_pow hm h
  obtain ⟨hge, -⟩ := odd_eq_mul_pow hn h.symm
  obtain rfl := le_antisymm hge hle
  rw [sub_self, Int.toNat_zero, pow_zero, mul_one] at hnm
  exact ⟨hnm.symm, rfl⟩

theorem odd_pow {m : Nat} (k : Nat) (hm : m % 2 = 1) : m ^ k % 2 = 1 :=
  Nat.odd_iff.1 ((Nat.odd_iff.2 hm).pow)

theorem mul_zpow_pow (m : Nat) (e : ℤ) (k : Nat) :
    ((m : ℚ) * (2 : ℚ) ^ e) ^ k = (m ^ k : Nat) * (2 : ℚ) ^ (e * k) := by
  rw [mul_pow, ← zpow_natCast ((2 : ℚ) ^ e) k, ← zpow_mul]
  push_cast
  rfl

/-! ### Roots -/

/-- The root built from the highest bit down: after bit b it is below the root by less than 2^b. -/
theorem isqrt_foldr {R r n : Nat} (hle : r ≤ R) (hlt : R < r + 2 ^ n) :
    (List.range n).foldr (fun b r => if (r + 2 ^ b) * (r + 2 ^ b) ≤ R * R then r + 2 ^ b else r) r = R := by
  induction n generalizing r with
  | zero => exact le_antisymm hle (by simpa using hlt)
  | succ n ih =>
    rw [List.range_succ, List.foldr_append, List.foldr_cons, List.foldr_nil]
    rw [pow_succ] at hlt
    split
    case isTrue h => exact ih (Nat.mul_self_le_mul_self_iff.1 h) (by omega)
    case isFalse h =>
      have hbit : ¬ r + 2 ^ n ≤ R := fun h' => h (Nat.mul_self_le_mul_self h')
      exact ih hle (by omega)

theorem isqrt_mul_self {R : Nat} (h : R < 2 ^ 27) : isqrt (R * R) = R :=
  isqrt_foldr (Nat.zero_le R) (by rwa [Nat.zero_add])

/-- What `dyadicRoot` answers is a 2^t-th root. -/
theorem dyadicRoot_sound {t m c : Nat} {e f : ℤ} (h : dyadicRoot t m e = some (c, f)) :
    ((c : ℚ) * (2 : ℚ) ^ f) ^ 2 ^ t = m * (2 : ℚ) ^ e := by
  induction t generalizing m e with
  | zero =>
    cases h
    rw [pow_zero, pow_one]
  | succ t ih =>
    rw [dyadicRoot] at h
    split at h
    case isFalse => cases h
    case isTrue hroot =>
      obtain ⟨heven, hsquare⟩ := hroot
      have he : e = e / 2 * (2 : Nat) := by omega
      rw [pow_succ, pow_mul, ih h, mul_zpow_pow, ← he, sq, hsquare]

/-- A number with a power that is a square is a square, when the power is odd. -/
theorem exists_mul_self_of_pow_eq {m N k : Nat} (hm : 0 < m) (hk : k % 2 = 1) (h : m ^ k = N ^ 2) :
    ∃ c, m = c * c ∧ c ^ k = N := by
  obtain ⟨a, rfl⟩ : ∃ a, k = 2 * a + 1 := ⟨k / 2, by omega⟩
  have hpow : (m ^ a) ^ 2 * m = N ^ 2 := by rw [← h]; ring
  obtain ⟨c, rfl⟩ : m ^ a ∣ N := (Nat.pow_dvd_pow_iff (by norm_num)).1 ⟨m, hpow.symm⟩
  have hc : m = c * c := by
    have hpos : 0 < (m ^ a) ^ 2 := by positivity
    rw [mul_pow] at hpow
    rw [Nat.eq_of_mul_eq_mul_left hpos hpow, sq]
  refine ⟨c, hc, ?_⟩
  calc c ^ (2 * a + 1) = (c * c) ^ a * c := by rw [pow_succ, pow_mul, sq]
    _ = m ^ a * c := by rw [← hc]

/-- `dyadicRoot` finds the root of m * 2^e whose k-th power is M * 2^E, when m * 2^e to the k is the 2^t-th power of that
and no root is taken of an even power. -/
theorem dyadicRoot_complete {t m k M : Nat} {e E : ℤ} (hm : m < 2 ^ 53) (hodd : m % 2 = 1) (hk : t = 0 ∨ k % 2 = 1)
    (hpow : m ^ k = M ^ 2 ^ t) (hexp : e * k = E * 2 ^ t) :
    ∃ c f, dyadicRoot t m e = some (c, f) ∧ c % 2 = 1 ∧ c ^ k = M ∧ f * k = E := by
  induction t generalizing m e with
  | zero => exact ⟨m, e, rfl, hodd, by simpa using hpow, by simpa using hexp⟩
  | succ t ih =>
    have hkodd : k % 2 = 1 := hk.resolve_left (Nat.succ_ne_zero t)
    rw [pow_succ, pow_mul] at hpow
    obtain ⟨c, rfl, hc⟩ := exists_mul_self_of_pow_eq (by omega) hkodd hpow
    have hsmall : c < 2 ^ 27 := by nlinarith
    have hcodd : c % 2 = 1 := by
      rcases Nat.mod_two_eq_zero_or_one c with h0 | h1
      · rw [Nat.mul_mod, h0] at hodd
        cases hodd
      · exact h1
    have heven : e % 2 = 0 := by
      have h2 : (2 : ℤ) ∣ e * k := ⟨E * 2 ^ t, by rw [hexp, pow_succ]; ring⟩
      rcases Int.Prime.dvd_mul' Nat.prime_two h2 with he | hk2
      · exact Int.emod_eq_zero_of_dvd he
      · omega
    have hhalf : e / 2 * k = E * 2 ^ t := by
      have he : e = e / 2 * 2 := by omega
      have : e / 2 * k * 2 = E * 2 ^ t * 2 := by
        calc e / 2 * k * 2 = e / 2 * 2 * k := by ring
          _ = E * 2 ^ (t + 1) := by rw [← he, hexp]
          _ = E * 2 ^ t * 2 := by rw [pow_succ]; ring
      exact mul_right_cancel₀ two_ne_zero this
    obtain ⟨d, f, hroot, hdodd, hd, hf⟩ := ih (by omega) hcodd (.inr hkodd) hc hhalf
    refine ⟨d, f, ?_, hdodd, hd, hf⟩
    rw [dyadicRoot, isqrt_mul_self hsmall, if_pos ⟨heven, rfl⟩, hroot]

/-! ### Powers -/

/-- What `dyadicPow` answers is the power. -/
theorem dyadicPow_sound {m k : Nat} {e : ℤ} {r : F64} (hle : (m : ℚ) * (2 : ℚ) ^ e ≤ 1) (h : dyadicPow m e k = some r) :
    F64.Stands (((m : ℚ) * (2 : ℚ) ^ e) ^ k) r := by
  have hvalue : ((m ^ k : Nat) : ℚ) * (2 : ℚ) ^ (e * k) < (2 : ℚ) ^ (1024 : ℤ) := by
    rw [← mul_zpow_pow]
    exact (pow_le_one₀ (by positivity) hle).trans_lt (one_lt_zpow₀ (by norm_num) (by norm_num))
  rw [dyadicPow] at h
  split at h
  case isTrue => cases h
  case isFalse hlow =>
    have hround {n : Nat} (hn : n = m ^ k) (hlt : n < 2 ^ 53) :
        F64.Stands (((m : ℚ) * (2 : ℚ) ^ e) ^ k) (F64.round false n (e * k) false) := by
      subst hn
      obtain ⟨hfin, hrat⟩ := F64.toRat_round_exact false false hlt (not_lt.1 hlow) hvalue
      exact ⟨hfin, by rw [hrat, mul_zpow_pow, F64.signFactor]; simp⟩
    split at h
    case isTrue hone =>
      cases h
      exact hround (by rw [hone, one_pow]) (by norm_num)
    case isFalse =>
      split at h
      case isTrue => cases h
      case isFalse =>
        split at h
        case isFalse => cases h
        case isTrue hlt =>
          cases h
          exact hround rfl hlt

/-- `dyadicPow` answers whenever the power is an F64: then it has at most 53 bits, and none below 2^-1074. -/
theorem dyadicPow_complete {m k : Nat} {e : ℤ} {r : F64} (hodd : m % 2 = 1) (hpos : 0 < F64.toRat r)
    (h : ((m : ℚ) * (2 : ℚ) ^ e) ^ k = F64.toRat r) : ∃ r', dyadicPow m e k = some r' := by
  rw [mul_zpow_pow, F64.toRat_of_pos hpos] at h
  obtain ⟨hexp, hmant⟩ := odd_eq_mul_pow (odd_pow k hodd) h
  have hlow : ¬ e * k < -1074 := by
    unfold F64.expo at hexp
    omega
  have hbits : m ^ k < 2 ^ 53 :=
    calc m ^ k ≤ m ^ k * 2 ^ (e * k - F64.expo r).toNat := Nat.le_mul_of_pos_right _ (by positivity)
      _ = F64.mant r := hmant.symm
      _ < 2 ^ 53 := F64.mant_lt r
  rw [dyadicPow, if_neg hlow]
  by_cases hone : m = 1
  · exact ⟨_, if_pos hone⟩
  · have hk : ¬ 33 < k := fun hk => by
      have hlarge : 3 ^ 34 ≤ m ^ k :=
        (Nat.pow_le_pow_left (by omega) 34).trans (Nat.pow_le_pow_right (by omega) hk)
      omega
    rw [if_neg hone, if_neg hk, if_pos hbits]
    exact ⟨_, rfl⟩

end Sys2Proof
end

section
/-! SUPPORT. POW64 inside the unit interval: where `exactPow` answers it gives the real power, and it answers wherever
that is an F64 (00_scope.md R19 P3, P5). -/

namespace Sys2Proof

section
variable {x y : F64}

/-- A positive number as an odd integer times a power of two. -/
theorem oddPart_of_pos (hpos : 0 < F64.toRat x) :
    (oddPart 53 (F64.mant x) (F64.expo x)).1 % 2 = 1 ∧ (oddPart 53 (F64.mant x) (F64.expo x)).1 < 2 ^ 53 ∧
      ((oddPart 53 (F64.mant x) (F64.expo x)).1 : ℚ) * (2 : ℚ) ^ (oddPart 53 (F64.mant x) (F64.expo x)).2 =
        F64.toRat x := by
  have hmant := Nat.pos_of_ne_zero (F64.mant_ne_zero_of_toRat_ne_zero hpos.ne')
  obtain ⟨hodd, hle, hval⟩ := oddPart_spec (F64.expo x) hmant (F64.mant_lt x)
  exact ⟨hodd, hle.trans_lt (F64.mant_lt x), hval.trans (F64.toRat_of_pos hpos).symm⟩

/-- The root's degree in y = k * 2^j, as a power of two: 2^(-j) when j is negative. -/
def rootDegree (y : F64) : Nat := (-(oddPart 53 (F64.mant y) (F64.expo y)).2).toNat

/-- The power taken of the root: k, or k * 2^j when j is not negative. -/
def powerDegree (y : F64) : Nat :=
  (oddPart 53 (F64.mant y) (F64.expo y)).1 <<< (oddPart 53 (F64.mant y) (F64.expo y)).2.toNat

theorem exactPow_eq (x y : F64) : exactPow x y =
    (dyadicRoot (rootDegree y) (oddPart 53 (F64.mant x) (F64.expo x)).1 (oddPart 53 (F64.mant x) (F64.expo x)).2).bind
      fun r => dyadicPow r.1 r.2 (powerDegree y) := by
  rw [exactPow, rootDegree, powerDegree]
  cases dyadicRoot _ _ _ <;> rfl

/-- y is the quotient of the two degrees, and no root is taken of an even power. -/
theorem toRat_mul_rootDegree (hy : 0 < F64.toRat y) :
    F64.toRat y * 2 ^ rootDegree y = powerDegree y ∧ (rootDegree y = 0 ∨ powerDegree y % 2 = 1) := by
  obtain ⟨hodd, -, hval⟩ := oddPart_of_pos hy
  rw [rootDegree, powerDegree, ← hval, Nat.shiftLeft_eq]
  generalize oddPart 53 (F64.mant y) (F64.expo y) = p at *
  obtain ⟨k, j⟩ := p
  rcases le_total 0 j with hj | hj
  · obtain ⟨n, rfl⟩ := Int.eq_ofNat_of_zero_le hj
    exact ⟨by simp, .inl (by simp)⟩
  · obtain ⟨n, hn⟩ := Int.eq_ofNat_of_zero_le (neg_nonneg.2 hj)
    obtain rfl : j = -n := by omega
    refine ⟨?_, .inr (by simpa using hodd)⟩
    simp

/-- Inside the unit interval POW64 is the exact power where `exactPow` answers (00_scope.md R19). -/
theorem pow64_of_interior (hx : 0 < F64.toRat x) (hx' : F64.toRat x < 1) (hy : F64.posFinite y = true) :
    pow64 x y = (exactPow x y).getD (clipUnit (Config.powFree x y)) := by
  have hunit : F64.inUnit x = true := F64.inUnit_of_mem hx.le hx'.le
  have hone : x ≠ F64.one := by
    rintro rfl
    exact hx'.ne F64.stands_one.2
  have hzero : x ≠ F64.zero := by
    rintro rfl
    exact hx.ne' F64.stands_zero.2
  have hz : F64.isZero x = false := by
    rw [Bool.eq_false_iff, Ne, F64.isZero_iff]
    exact hx.ne'
  rw [pow64, hunit, hy, if_neg hone, if_neg hzero, hz]
  cases exactPow x y <;> rfl

/-- What `exactPow` answers is the power of a root of x, so it lies in the unit interval too. -/
theorem exactPow_sound {r : F64} (hx : 0 < F64.toRat x) (hx' : F64.toRat x ≤ 1) (h : exactPow x y = some r) :
    ∃ b : ℚ, 0 ≤ b ∧ b ≤ 1 ∧ b ^ 2 ^ rootDegree y = F64.toRat x ∧ F64.Stands (b ^ powerDegree y) r := by
  rw [exactPow_eq, Option.bind_eq_some_iff] at h
  obtain ⟨⟨c, f⟩, hroot, hpow⟩ := h
  have hb := (dyadicRoot_sound hroot).trans (oddPart_of_pos hx).2.2
  have hnonneg : (0 : ℚ) ≤ c * (2 : ℚ) ^ f := by positivity
  have hle : (c : ℚ) * (2 : ℚ) ^ f ≤ 1 :=
    (pow_le_one_iff_of_nonneg hnonneg (pow_ne_zero _ two_ne_zero)).1 (by rw [hb]; exact hx')
  exact ⟨_, hnonneg, hle, hb, dyadicPow_sound hle hpow⟩

/-- `exactPow` answers wherever x to the powerDegree is a number to the 2^rootDegree. -/
theorem exactPow_complete {r : F64} (hx : 0 < F64.toRat x) (hx' : F64.toRat x ≤ 1) (hy : 0 < F64.toRat y)
    (hr : 0 < F64.toRat r) (h : F64.toRat x ^ powerDegree y = F64.toRat r ^ 2 ^ rootDegree y) :
    ∃ r', exactPow x y = some r' ∧ F64.toRat r' = F64.toRat r := by
  obtain ⟨hodd, hsmall, hxval⟩ := oddPart_of_pos hx
  obtain ⟨hrodd, -, hrval⟩ := oddPart_of_pos hr
  have hdyadic := h
  rw [← hxval, ← hrval, mul_zpow_pow, mul_zpow_pow] at hdyadic
  obtain ⟨hpow, hexp⟩ := odd_mul_zpow_inj (odd_pow _ hodd) (odd_pow _ hrodd) hdyadic
  obtain ⟨c, f, hroot, hcodd, hc, hf⟩ :=
    dyadicRoot_complete hsmall hodd (toRat_mul_rootDegree hy).2 hpow (by exact_mod_cast hexp)
  have hval : ((c : ℚ) * (2 : ℚ) ^ f) ^ powerDegree y = F64.toRat r := by
    rw [mul_zpow_pow, hc, hf, hrval]
  obtain ⟨r', hr'⟩ := dyadicPow_complete hcodd hr hval
  have hle : (c : ℚ) * (2 : ℚ) ^ f ≤ 1 := by
    refine (pow_le_one_iff_of_nonneg (by positivity) (pow_ne_zero (rootDegree y) two_ne_zero)).1 ?_
    rwa [dyadicRoot_sound hroot, hxval]
  refine ⟨r', ?_, (dyadicPow_sound hle hr').2.trans hval⟩
  rw [exactPow_eq, hroot]
  exact hr'

/-- A real power that is rational, without roots: x to the powerDegree is its 2^rootDegree-th power. -/
theorem pow_powerDegree_of_rpow {q : ℚ} (hx : 0 ≤ F64.toRat x) (hy : 0 < F64.toRat y)
    (h : ((F64.toRat x : ℚ) : ℝ) ^ ((F64.toRat y : ℚ) : ℝ) = (q : ℝ)) :
    F64.toRat x ^ powerDegree y = q ^ 2 ^ rootDegree y := by
  have hx' : (0 : ℝ) ≤ (F64.toRat x : ℚ) := by exact_mod_cast hx
  have hdegrees : ((F64.toRat y : ℚ) : ℝ) * (2 ^ rootDegree y : Nat) = powerDegree y := by
    exact_mod_cast (toRat_mul_rootDegree hy).1
  have hreal : ((F64.toRat x : ℚ) : ℝ) ^ powerDegree y = (q : ℝ) ^ 2 ^ rootDegree y := by
    rw [← h, ← Real.rpow_natCast, ← Real.rpow_natCast, ← Real.rpow_mul hx', hdegrees]
  exact_mod_cast hreal

end

end Sys2Proof
end

section
/-! PROOFS. The statements about COS64, SIN64 and POW64 (00_scope.md R19 P1 to P5). -/

namespace Sys2Proof

theorem clipUnit_mem (v : F64) :
    F64.isFinite (clipUnit v) = true ∧ 0 ≤ F64.toRat (clipUnit v) ∧ F64.toRat (clipUnit v) ≤ 1 := by
  rw [clipUnit]
  split
  case isTrue h => exact F64.mem_of_inUnit h
  case isFalse =>
    obtain ⟨hfin, hrat⟩ := F64.stands_zero
    exact ⟨hfin, hrat.ge, hrat.le.trans zero_le_one⟩

/-- The three cases of P3 to P5: the ends of the unit interval and its inside. -/
theorem unit_cases {x : F64} (hx : F64.isFinite x = true) (h : 0 ≤ F64.toRat x) (h' : F64.toRat x ≤ 1) :
    F64.Stands 0 x ∨ x = F64.one ∨ (0 < F64.toRat x ∧ F64.toRat x < 1) := by
  rcases h.eq_or_lt with hzero | hpos
  · exact .inl ⟨hx, hzero.symm⟩
  · rcases h'.eq_or_lt with hone | hlt
    · exact .inr (.inl (F64.eq_of_toRat_eq hpos (hone.trans F64.stands_one.2.symm)))
    · exact .inr (.inr ⟨hpos, hlt⟩)

/-- P3 of POW64. -/
theorem pow64_mem {x y : F64} (hx : F64.isFinite x = true) (hy : F64.isFinite y = true) (h : 0 ≤ F64.toRat x)
    (h' : F64.toRat x ≤ 1) (hypos : 0 < F64.toRat y) :
    F64.isFinite (pow64 x y) = true ∧ 0 ≤ F64.toRat (pow64 x y) ∧ F64.toRat (pow64 x y) ≤ 1 := by
  have hyfin := F64.posFinite_of_pos hy hypos
  rcases unit_cases hx h h' with hzero | rfl | ⟨hpos, hlt⟩
  · obtain ⟨hfin, hrat⟩ := pow64_of_zero hzero hyfin
    exact ⟨hfin, hrat.ge, hrat.le.trans zero_le_one⟩
  · obtain ⟨hfin, hrat⟩ := F64.stands_one
    rw [pow64_one hyfin]
    exact ⟨hfin, zero_le_one.trans hrat.ge, hrat.le⟩
  · rw [pow64_of_interior hpos hlt hyfin]
    cases hexact : exactPow x y with
    | none => exact clipUnit_mem _
    | some r =>
      obtain ⟨b, hb, hb', -, hfin, hrat⟩ := exactPow_sound hpos hlt.le hexact
      rw [Option.getD_some, hrat]
      exact ⟨hfin, pow_nonneg hb _, pow_le_one₀ hb hb'⟩

/-- Settles O53: the clipped functions are bounded, and what `exactPow` answers is a power of a number in [0, 1]. -/
theorem parameterFunctionsBounded : Obligations.ParameterFunctionsBounded := by
  unfold Obligations.ParameterFunctionsBounded
  refine ⟨fun x hx => ⟨?cos, ?sin⟩, if_pos rfl, if_pos rfl, fun x y hx hy h h' hypos => pow64_mem hx hy h h' hypos,
    fun y hy hypos => ?ends⟩
  case cos =>
    have hb := cos64_boundedBy_one hx
    exact ⟨hb.finite, hb.bound⟩
  case sin =>
    have hb := sin64_boundedBy_one hx
    exact ⟨hb.finite, hb.bound⟩
  case ends =>
    have hyfin := F64.posFinite_of_pos hy hypos
    exact ⟨pow64_one hyfin, pow64_zero hyfin⟩

/-- Settles O54: raised to the root's degree the real power is an equation between numbers, and `exactPow` solves it. -/
theorem exactPowersAreGiven : Obligations.ExactPowersAreGiven := by
  unfold Obligations.ExactPowersAreGiven
  intro x y r hx hy _ h h' hypos hpow
  have hyfin := F64.posFinite_of_pos hy hypos
  rcases unit_cases hx h h' with hzero | rfl | ⟨hpos, hlt⟩
  · have hyne : ((F64.toRat y : ℚ) : ℝ) ≠ 0 := by exact_mod_cast hypos.ne'
    rw [hzero.2, Rat.cast_zero, Real.zero_rpow hyne] at hpow
    rw [(pow64_of_zero hzero hyfin).2]
    exact_mod_cast hpow
  · rw [F64.stands_one.2, Rat.cast_one, Real.one_rpow] at hpow
    rw [pow64_one hyfin, F64.stands_one.2]
    exact_mod_cast hpow
  · have hrpos : 0 < F64.toRat r := by
      have hreal : (0 : ℝ) < (F64.toRat x : ℚ) := by exact_mod_cast hpos
      have := Real.rpow_pos_of_pos hreal ((F64.toRat y : ℚ) : ℝ)
      rw [hpow] at this
      exact_mod_cast this
    obtain ⟨r', hexact, hval⟩ := exactPow_complete hpos hlt.le hypos hrpos (pow_powerDegree_of_rpow h hypos hpow)
    rw [pow64_of_interior hpos hlt hyfin, hexact]
    exact hval

end Sys2Proof
end
